-- ==== Sys2Proof/Word.lean ====
section
/-! DEFINITION. The words of the block: every quantity is an unsigned bit vector (00_scope.md R7, R8). -/

namespace Sys2Proof

/-- A tick count, TICK_W = 16 bits (R7). -/
abbrev Tick := BitVec 16

/-- A frame, FRAME_W = 16 bits (R7). -/
abbrev Frame := BitVec 16

/-- The throttle operand, VALUE_W = 16 bits (R7). -/
abbrev ThrottleOperand := BitVec 16

/-- A command word, CMD_W = 40 bits (R7, R56). -/
abbrev CommandWord := BitVec 40

/-- The argument field of a command word, bits 31:0 (R56). -/
abbrev ArgWord := BitVec 32

/-- A response word, RESP_W = 36 bits (R7, R60). -/
abbrev ResponseWord := BitVec 36

/-- A 32-bit data word: response data, register views, descriptor words (R60, R41, R62). -/
abbrev DataWord := BitVec 32

/-- The clock frequency in hertz, CLKHZ_W = 32 bits (R7, R19). -/
abbrev ClockHz := BitVec 32

/-- The clock divider, CLKDIV_W = 8 bits (R7, R20). -/
abbrev ClockDiv := BitVec 8

/-- A register index of `RD`, 8 bits (R40). -/
abbrev RegIndex := BitVec 8

end Sys2Proof
end

