-- ==== Sys2Proof/Config.lean ====
section
/-! DEFINITION. What is fixed for the hardware: the closed set of speed profiles, the timing sources, the channels of a
group and the named command codes. The model has no opaque constant: the one free input, the transmit collaborator's
answer (42_pulse_train_sequencer.md R122), is plain data in `Machine.Channel.answers`. -/

namespace Sys2Proof

/-- The four speed profiles, a closed set (41_tick_calibrator.md R86). -/
inductive SpeedProfile where
  | dshot150
  | dshot300
  | dshot600
  | dshot1200
deriving DecidableEq, Repr

/-- Which timing source `INIT` used, the values of SRC (10_state.md R16). -/
inductive TimingSource where
  /-- 0 NONE: not configured. -/
  | unset
  /-- 1 DEFAULT: the built-in default table. -/
  | table
  /-- 2 CLOCK: clock-derived calibration. -/
  | clock
  /-- 3 OVERRIDE: the explicit override. -/
  | explicit
deriving DecidableEq, Repr

/-- The four channels of a MotorGroup, 1 to 4 (10_state.md R33, 44_driver_sequences.md R153). -/
inductive ChannelId where
  | motor1
  | motor2
  | motor3
  | motor4
deriving DecidableEq, Repr

/-- The fifteen command codes the spec names (40_frame_codec.md R75); codes 15 to 47 have no name (R76). They are
constants for the host: the block encodes every value alike. -/
inductive CommandCode where
  | motorStop
  | beep1
  | beep2
  | beep3
  | beep4
  | beep5
  | escInfo
  | spinDirection1
  | spinDirection2
  | mode3dOff
  | mode3dOn
  | settingsRequest
  | saveSettings
  | extendedTelemetryEnable
  | extendedTelemetryDisable
deriving DecidableEq, Repr

/-- The transmit collaborator's answer to one train (42_pulse_train_sequencer.md R122). -/
inductive TxAnswer where
  /-- `done`: the train was transmitted. -/
  | done
  /-- `fail`: it could not send the pulse train. -/
  | fail
deriving DecidableEq, Repr

end Sys2Proof
end

