-- ==== Sys2Proof/Syntax.lean ====
section
/-! DEFINITION. The commands of the block, one constructor per row of spec/opcode_table.json (30_encoding.md R58). -/

namespace Sys2Proof

/-- A command with its operands, each the unsigned integer of its slice (30_encoding.md R57, R65). Every operand is as
wide as its field, so every term of this type is a command the encoding admits. -/
inductive Instr where
  /-- `NOP` (43_system_commands.md R136). -/
  | nop
  /-- `RST` (43_system_commands.md R137). -/
  | rst
  /-- `SETCLK hz` (41_tick_calibrator.md R100). -/
  | setclk (hz : ClockHz)
  /-- `SETDIV d` (41_tick_calibrator.md R101). -/
  | setdiv (d : ClockDiv)
  /-- `SETOVR t0h, t1h` (41_tick_calibrator.md R102). -/
  | setovr (t0h t1h : Tick)
  /-- `INIT p [, OVR] [, CLK]`: `o` and `c` say which timing sources the host supplies (41_tick_calibrator.md R103). -/
  | init (p : SpeedProfile) (o c : Bool)
  /-- `CAL p` (41_tick_calibrator.md R104). -/
  | cal (p : SpeedProfile)
  /-- `LUT p` (41_tick_calibrator.md R105). -/
  | lut (p : SpeedProfile)
  /-- `BITPER p` (41_tick_calibrator.md R106). -/
  | bitper (p : SpeedProfile)
  /-- `ENCODE v, t` (40_frame_codec.md R78). -/
  | encode (v : ThrottleOperand) (t : Bool)
  /-- `BUILD f` (42_pulse_train_sequencer.md R119). -/
  | build (f : Frame)
  /-- `SEND` (42_pulse_train_sequencer.md R120). -/
  | send
  /-- `WRITE v, t` (42_pulse_train_sequencer.md R125). -/
  | write (v : ThrottleOperand) (t : Bool)
  /-- `RD r` (43_system_commands.md R138). -/
  | rd (r : RegIndex)
deriving DecidableEq, Repr

end Sys2Proof
end

