-- ==== Sys2Proof/WellFormed.lean ====
section
/-! DEFINITION. What is well formed: a command word (it selects a row of the opcode map, 30_encoding.md R58) and a line
of the assembler notation (each operand in its stated range, R66). A term of `Instr` is well formed by its type: each
operand is exactly as wide as its field (R57, R65). The opcode map is written here from the table's match and mask, apart
from the decoder, which follows the slices of R57 and R69; that the two agree is a statement. -/

namespace Sys2Proof

/-- One row of the opcode map: a word `w` selects it when `w & mask = pattern` (R58). -/
structure OpcodeRow where
  mnemonic : String
  pattern  : CommandWord
  mask     : CommandWord
deriving DecidableEq, Repr

/-- The opcode map (R58), in the table's order. -/
def opcodeMap : List OpcodeRow :=
  [⟨"NOP", 0x0000000000, 0xFFFFFFFFFF⟩, ⟨"RST", 0x0100000000, 0xFFFFFFFFFF⟩,
   ⟨"SETCLK", 0x0200000000, 0xFF00000000⟩, ⟨"SETDIV", 0x0300000000, 0xFFFFFFFF00⟩,
   ⟨"SETOVR", 0x0400000000, 0xFF00000000⟩, ⟨"INIT", 0x0500000000, 0xFFFFFFFCFC⟩,
   ⟨"CAL", 0x0600000000, 0xFFFFFFFFFC⟩] ++
  [⟨"LUT", 0x0700000000, 0xFFFFFFFFFC⟩, ⟨"BITPER", 0x0800000000, 0xFFFFFFFFFC⟩,
   ⟨"ENCODE", 0x0900000000, 0xFFFFFE0000⟩, ⟨"BUILD", 0x0A00000000, 0xFFFFFF0000⟩,
   ⟨"SEND", 0x0B00000000, 0xFFFFFFFFFF⟩, ⟨"WRITE", 0x0C00000000, 0xFFFFFE0000⟩,
   ⟨"RD", 0x0D00000000, 0xFFFFFFFF00⟩]

/-- The word selects this row (R58). -/
def OpcodeRow.selects (r : OpcodeRow) (w : CommandWord) : Bool :=
  w &&& r.mask == r.pattern

/-- No word selects both rows: they disagree on a bit that both masks hold. -/
def OpcodeRow.disjoint (r q : OpcodeRow) : Bool :=
  (r.pattern ^^^ q.pattern) &&& r.mask &&& q.mask != 0

/-- The word is a legal command: it selects a row of the opcode map; every other word is illegal (R58, R59). -/
def wellFormedWord (w : CommandWord) : Bool :=
  opcodeMap.any (·.selects w)

/-- The register names of the assembler notation (R66, 20_memory.md R41). -/
inductive RegName where
  | status
  | frame
  | t0h
  | t0l
  | t1h
  | t1l
  | clkhz
  | clkdiv
  | ovr
  /-- `PT0` to `PT16`. -/
  | pt (i : Fin 17)
deriving DecidableEq, Repr

/-- The index of a register name (20_memory.md R41). -/
def regNameIndex : RegName → Nat
  | .status => 0x00
  | .frame => 0x01
  | .t0h => 0x02
  | .t0l => 0x03
  | .t1h => 0x04
  | .t1l => 0x05
  | .clkhz => 0x06
  | .clkdiv => 0x07
  | .ovr => 0x08
  | .pt i => 0x10 + i.val

/-- A line of the assembler notation with its operands as numbers (R66); a profile operand by its number 0 to 3, a
register operand by its index or its name. The prefix `ch<k>:` is the channel of `Machine.HostOp.command`. -/
inductive Asm where
  | nop
  | rst
  | setclk (hz : Nat)
  | setdiv (d : Nat)
  | setovr (t0h t1h : Nat)
  | init (p : Nat) (ovr clk : Bool)
  | cal (p : Nat)
  | lut (p : Nat)
  | bitper (p : Nat)
  | encode (v t : Nat)
  | build (f : Nat)
  | send
  | write (v t : Nat)
  | rd (r : Nat)
  | rdNamed (r : RegName)
deriving DecidableEq, Repr

/-- Every operand is in its stated range: "An operand outside its stated range cannot be written in this syntax" (R66;
the ranges of hz, t0h, t1h are those of their fields, R57). -/
def Asm.wellFormed : Asm → Bool
  | .nop => true
  | .rst => true
  | .setclk hz => hz < 4294967296
  | .setdiv d => d ≤ 255
  | .setovr t0h t1h => t0h ≤ 65535 && t1h ≤ 65535
  | .init p _ _ => p ≤ 3
  | .cal p => p ≤ 3
  | .lut p => p ≤ 3
  | .bitper p => p ≤ 3
  | .encode v t => v ≤ 65535 && t ≤ 1
  | .build f => f ≤ 65535
  | .send => true
  | .write v t => v ≤ 65535 && t ≤ 1
  | .rd r => r ≤ 255
  | .rdNamed _ => true

end Sys2Proof
end

