-- ==== Sys2Proof/Decode.lean ====
section
/-! DEFINITION. Decoding and encoding of command words (30_encoding.md R56 to R59, R64 to R66, R69). Decoding is total:
a word is a command or is rejected by name. -/

namespace Sys2Proof

/-- Why a word is illegal (R59); the block answers either with ILLOP (60_exceptions.md R167). -/
inductive DecodeError where
  /-- The opcode is in 0x0E to 0xFF (R59 (a)). -/
  | reservedOpcode
  /-- A reserved argument bit of a defined opcode is 1 (R59 (b)). -/
  | reservedBit
deriving DecidableEq, Repr

/-- The opcode field `op = w[39:32]` (R56). -/
def opField (w : CommandWord) : BitVec 8 := w.extractLsb' 32 8

/-- The argument field `arg = w[31:0]` (R56). -/
def argField (w : CommandWord) : ArgWord := w.extractLsb' 0 32

/-- The profile selector of a 2-bit `p`; all four values are legal (R64). -/
def profileOfCode (p : BitVec 2) : SpeedProfile :=
  match p.toNat with
  | 0 => .dshot150
  | 1 => .dshot300
  | 2 => .dshot600
  | _ => .dshot1200

/-- The 2-bit code of a profile (R64). -/
def profileCode : SpeedProfile → BitVec 2
  | .dshot150 => 0
  | .dshot300 => 1
  | .dshot600 => 2
  | .dshot1200 => 3

/-- The command, if the format's reserved bits are all zero (R59 (b), R69). -/
def ifReservedZero (zero : Bool) (i : Instr) : Except DecodeError Instr :=
  if zero then .ok i else .error .reservedBit

/-- The operand `p = arg[1:0]` of formats I and P (R57). -/
def profileField (arg : ArgWord) : SpeedProfile := profileOfCode (arg.extractLsb' 0 2)

/-- Format Z: all of the argument is reserved (R57). -/
def reservedZeroZ (arg : ArgWord) : Bool := arg == 0

/-- Formats B and R: `arg[31:8]` is reserved (R57). -/
def reservedZeroB (arg : ArgWord) : Bool := arg.extractLsb' 8 24 == 0

/-- Format I: `arg[7:2]` and `arg[31:10]` are reserved (R57). -/
def reservedZeroI (arg : ArgWord) : Bool := arg.extractLsb' 2 6 == 0 && arg.extractLsb' 10 22 == 0

/-- Format P: `arg[31:2]` is reserved (R57). -/
def reservedZeroP (arg : ArgWord) : Bool := arg.extractLsb' 2 30 == 0

/-- Format V: `arg[31:17]` is reserved (R57). -/
def reservedZeroV (arg : ArgWord) : Bool := arg.extractLsb' 17 15 == 0

/-- Format F: `arg[31:16]` is reserved (R57). -/
def reservedZeroF (arg : ArgWord) : Bool := arg.extractLsb' 16 16 == 0

/-- The low half `arg[15:0]`: `t0h` of format O, `v` of format V, `f` of format F (R57). -/
def lowHalf (arg : ArgWord) : BitVec 16 := arg.extractLsb' 0 16

/-- The high half `arg[31:16]`: `t1h` of format O (R57). -/
def highHalf (arg : ArgWord) : BitVec 16 := arg.extractLsb' 16 16

/-- The low byte `arg[7:0]`: `d` of format B, `r` of format R (R57). -/
def lowByte (arg : ArgWord) : BitVec 8 := arg.extractLsb' 0 8

/-- The decoder, in the order of R69: opcode, then reserved bits, then fields. -/
def decode (w : CommandWord) : Except DecodeError Instr :=
  let arg := argField w
  match (opField w).toNat with
  | 0x00 => ifReservedZero (reservedZeroZ arg) .nop
  | 0x01 => ifReservedZero (reservedZeroZ arg) .rst
  | 0x02 => .ok (.setclk arg)
  | 0x03 => ifReservedZero (reservedZeroB arg) (.setdiv (lowByte arg))
  | 0x04 => .ok (.setovr (lowHalf arg) (highHalf arg))
  | 0x05 => ifReservedZero (reservedZeroI arg) (.init (profileField arg) (arg.getLsbD 8) (arg.getLsbD 9))
  | 0x06 => ifReservedZero (reservedZeroP arg) (.cal (profileField arg))
  | 0x07 => ifReservedZero (reservedZeroP arg) (.lut (profileField arg))
  | 0x08 => ifReservedZero (reservedZeroP arg) (.bitper (profileField arg))
  | 0x09 => ifReservedZero (reservedZeroV arg) (.encode (lowHalf arg) (arg.getLsbD 16))
  | 0x0A => ifReservedZero (reservedZeroF arg) (.build (lowHalf arg))
  | 0x0B => ifReservedZero (reservedZeroZ arg) .send
  | 0x0C => ifReservedZero (reservedZeroV arg) (.write (lowHalf arg) (arg.getLsbD 16))
  | 0x0D => ifReservedZero (reservedZeroB arg) (.rd (lowByte arg))
  | _ => .error .reservedOpcode

/-- The opcode of a command (R58). -/
def opcodeOf : Instr → BitVec 8
  | .nop => 0x00
  | .rst => 0x01
  | .setclk _ => 0x02
  | .setdiv _ => 0x03
  | .setovr _ _ => 0x04
  | .init _ _ _ => 0x05
  | .cal _ => 0x06
  | .lut _ => 0x07
  | .bitper _ => 0x08
  | .encode _ _ => 0x09
  | .build _ => 0x0A
  | .send => 0x0B
  | .write _ _ => 0x0C
  | .rd _ => 0x0D

/-- The argument of a command: its fields in their places, every reserved bit zero (R57). -/
def argOf : Instr → ArgWord
  | .nop => 0
  | .rst => 0
  | .setclk hz => hz
  | .setdiv d => 0#24 ++ d
  | .setovr t0h t1h => t1h ++ t0h
  | .init p o c => 0#22 ++ BitVec.ofBool c ++ BitVec.ofBool o ++ 0#6 ++ profileCode p
  | .cal p => 0#30 ++ profileCode p
  | .lut p => 0#30 ++ profileCode p
  | .bitper p => 0#30 ++ profileCode p
  | .encode v t => 0#15 ++ BitVec.ofBool t ++ v
  | .build f => 0#16 ++ f
  | .send => 0
  | .write v t => 0#15 ++ BitVec.ofBool t ++ v
  | .rd r => 0#24 ++ r

/-- The word of a command: opcode in bits 39:32, argument in bits 31:0 (R56). -/
def encode (i : Instr) : CommandWord := opcodeOf i ++ argOf i

/-- The command a line of the assembler notation stands for (R66). -/
def Asm.instr : Asm → Instr
  | .nop => .nop
  | .rst => .rst
  | .setclk hz => .setclk (BitVec.ofNat 32 hz)
  | .setdiv d => .setdiv (BitVec.ofNat 8 d)
  | .setovr t0h t1h => .setovr (BitVec.ofNat 16 t0h) (BitVec.ofNat 16 t1h)
  | .init p ovr clk => .init (profileOfCode (BitVec.ofNat 2 p)) ovr clk
  | .cal p => .cal (profileOfCode (BitVec.ofNat 2 p))
  | .lut p => .lut (profileOfCode (BitVec.ofNat 2 p))
  | .bitper p => .bitper (profileOfCode (BitVec.ofNat 2 p))
  | .encode v t => .encode (BitVec.ofNat 16 v) (t == 1)
  | .build f => .build (BitVec.ofNat 16 f)
  | .send => .send
  | .write v t => .write (BitVec.ofNat 16 v) (t == 1)
  | .rd r => .rd (BitVec.ofNat 8 r)
  | .rdNamed r => .rd (BitVec.ofNat 8 (regNameIndex r))

/-- The opcode and the argument a line is encoded as, as numbers, from the table of R66. -/
def Asm.opAndArg : Asm → Nat × Nat
  | .nop => (0x00, 0)
  | .rst => (0x01, 0)
  | .setclk hz => (0x02, hz)
  | .setdiv d => (0x03, d)
  | .setovr t0h t1h => (0x04, t1h * 65536 + t0h)
  | .init p ovr clk => (0x05, (if ovr then 0x100 else 0) + (if clk then 0x200 else 0) + p)
  | .cal p => (0x06, p)
  | .lut p => (0x07, p)
  | .bitper p => (0x08, p)
  | .encode v t => (0x09, t * 65536 + v)
  | .build f => (0x0A, f)
  | .send => (0x0B, 0)
  | .write v t => (0x0C, t * 65536 + v)
  | .rd r => (0x0D, r)
  | .rdNamed r => (0x0D, regNameIndex r)

/-- The word of a line: the opcode in bits 39:32 over the argument (R56, R66). -/
def Asm.word (a : Asm) : CommandWord :=
  BitVec.ofNat 40 (a.opAndArg.1 * 4294967296 + a.opAndArg.2)

/-- The command the decoder reads from a word of `nbits` bits `w`, for the host's check of the opcode table. The block
has one word length, 40 bits, and no bytes (R56, R45), so the table's bit numbers are the word's. -/
def decodeTableWord (nbits w : Nat) : Option Instr :=
  match decode (BitVec.ofNat 40 (w % 2 ^ nbits)) with
  | .ok i => some i
  | .error _ => none

end Sys2Proof
end

