-- ==== Sys2Proof/Machine/State.lean ====
section
/-! DEFINITION. The state, as plain data: four channels, each with a block of 10_state.md, and the host and collaborators
around them (00_scope.md R6). Fields marked MODEL are the model's own, not the spec's; INVENTORY.md lists every one. -/

namespace Sys2Proof.Machine

open Sys2Proof

/-- A pulse descriptor: high then low duration, in ticks (42_pulse_train_sequencer.md R111, R117). -/
structure Descriptor where
  high : Tick
  low  : Tick
deriving DecidableEq, Repr

/-- A pulse train: exactly 17 descriptors (10_state.md R23, 42_pulse_train_sequencer.md R115). -/
abbrev PulseTrain := Vector Descriptor 17

/-- The four tick counts, D0's BitTicks (10_state.md R17). -/
structure BitTicks where
  t0h : Tick
  t0l : Tick
  t1h : Tick
  t1l : Tick
deriving DecidableEq, Repr

/-- The status of a response (60_exceptions.md R166). -/
inductive Status where
  /-- 0, success. -/
  | ok
  /-- 1, raised by SEND and WRITE when the collaborator answers `fail` (R170). -/
  | txfail
  /-- 2, raised by decode for an illegal word (R167). -/
  | illop
  /-- 3, raised by RD for an unmapped index (R168). -/
  | illreg
  /-- 4, raised by INIT, BUILD, SEND, WRITE in a state that does not permit them (R169). -/
  | illstate
deriving DecidableEq, Repr

/-- What a command is answered with (30_encoding.md R60). -/
structure Response where
  status : Status
  data   : DataWord
deriving DecidableEq, Repr

/-- The state elements of one block (10_state.md R13 to R28). -/
structure Block where
  /-- CONFIGURED (R14). -/
  configured : Bool
  /-- PROFILE (R15). -/
  profile    : SpeedProfile
  /-- SRC (R16). -/
  src        : TimingSource
  /-- T0H, T0L, T1H, T1L (R17). -/
  ticks      : BitTicks
  /-- CLKHZ (R19). -/
  clkhz      : ClockHz
  /-- CLKDIV (R20). -/
  clkdiv     : ClockDiv
  /-- OVR_T0H (R21). -/
  ovrT0h     : Tick
  /-- OVR_T1H (R21). -/
  ovrT1h     : Tick
  /-- FRAME (R22). -/
  frame      : Frame
  /-- PT[0..16] (R23). -/
  pt         : PulseTrain
  /-- PTVALID (R24). -/
  ptvalid    : Bool
  /-- POS (R27). -/
  pos        : BitVec 5
  /-- BUSY (R28). -/
  busy       : Bool
  /-- MODEL: the in-flight SEND or WRITE of R28, by the data its OK response will carry. -/
  inFlight   : Option DataWord
deriving DecidableEq, Repr

/-- The conceptual channel state kept by the driver (44_driver_sequences.md R152). -/
inductive DState where
  | unarmed
  | armed
  | unspecified
deriving DecidableEq, Repr

/-- One motor channel: its block, its response port, the collaborator wired to it and the driver's note of it. -/
structure Channel where
  /-- The block. -/
  block    : Block
  /-- MODEL: the word on the response port, none from acceptance to response (20_memory.md R47). -/
  response : Option Response
  /-- MODEL: how many trains the collaborator has been handed; the latest train has this number. -/
  trains   : Nat
  /-- MODEL: the collaborator's answers by train number, a free input (42_pulse_train_sequencer.md R122). -/
  answers  : List (Nat × TxAnswer)
  /-- DSTATE (44_driver_sequences.md R152). -/
  dstate   : DState
deriving DecidableEq, Repr

/-- The operations of the driver, with their operands (44_driver_sequences.md R148 to R155). -/
inductive DriverOp where
  /-- `CONSTRUCT p [, OVR t0h, t1h] [, CLK hz, d]` on one channel (R148). -/
  | construct (k : ChannelId) (p : SpeedProfile) (ovr : Option (Tick × Tick)) (clk : Option (ClockHz × ClockDiv))
  /-- `WRITE_THROTTLE v, t` on one channel (R149). -/
  | writeThrottle (k : ChannelId) (v : ThrottleOperand) (t : Bool)
  /-- `ARM` on one channel (R150). -/
  | arm (k : ChannelId)
  /-- `GARM` (R154). -/
  | garm
  /-- `GUPD v1, v2, v3, v4` (R155). -/
  | gupd (v1 v2 v3 v4 : ThrottleOperand)
deriving DecidableEq, Repr

/-- What a driver operation returns (44_driver_sequences.md R146). -/
inductive DriverResult where
  | ok
  | transmitFailure
deriving DecidableEq, Repr

/-- One action of a driver sequence: a command on a channel, or a wait (44_driver_sequences.md R146, R147). -/
inductive HostItem where
  | issue (k : ChannelId) (i : Instr)
  | waitMs (ms : Nat)
  /-- MODEL: the wait for a response that a hardware reset has taken away; it does not end (log entry 7). -/
  | lostResponse
deriving DecidableEq, Repr

/-- MODEL: a driver sequence in progress: the operation and what it still has to do. -/
structure Sequence where
  op   : DriverOp
  todo : List HostItem
deriving DecidableEq, Repr

/-- What the host may do next (20_memory.md R49, 44_driver_sequences.md R146, R147). -/
inductive HostOp where
  /-- Give any 40-bit word to the command port of channel `k`. -/
  | command (k : ChannelId) (w : CommandWord)
  /-- `WAIT_MS ms` (R147). -/
  | waitMs (ms : Nat)
  /-- Start a driver sequence. -/
  | call (op : DriverOp)
deriving DecidableEq, Repr

/-- What the environment may do (42_pulse_train_sequencer.md R122, 70_reset_and_hazards.md R186, R188). -/
inductive EnvEvent where
  /-- The collaborator of channel `k` answers its train number `n`. -/
  | answer (k : ChannelId) (n : Nat) (a : TxAnswer)
  /-- The reset input of channel `k`'s block is asserted. -/
  | hardwareReset (k : ChannelId)
deriving DecidableEq, Repr

/-- MODEL: one thing the outside world does, in order of its coming. -/
inductive Input where
  | host (h : HostOp)
  | env (e : EnvEvent)
deriving DecidableEq, Repr

/-- What can be observed of a run (00_scope.md R10), and what a driver sequence returned. -/
inductive Event where
  /-- A 32-bit descriptor word handed to the collaborator of channel `k` (R9 `Emit`). -/
  | emitted (k : ChannelId) (d : DataWord)
  /-- The collaborator's answer to the train just emitted (R9 `TxAnswer`). -/
  | answered (k : ChannelId) (a : TxAnswer)
  /-- The response to a command on channel `k`. -/
  | responded (k : ChannelId) (r : Response)
  /-- A `WAIT_MS` of the host (44_driver_sequences.md R147). -/
  | waited (ms : Nat)
  /-- The result a driver sequence returned to its caller (R146). -/
  | returned (op : DriverOp) (r : DriverResult)
deriving DecidableEq, Repr

/-- The whole machine. -/
structure State where
  motor1 : Channel
  motor2 : Channel
  motor3 : Channel
  motor4 : Channel
  /-- MODEL: the channel the host's latest command went to. -/
  sel    : ChannelId
  /-- MODEL: what the outside world does next, soonest first. -/
  inputs : List Input
  /-- MODEL: the driver sequence in progress. -/
  seq    : Option Sequence
  /-- MODEL: what has been observed, oldest first. -/
  trace  : List Event
deriving DecidableEq, Repr

/-- No event stops the machine: every error is the status of a response (60_exceptions.md R174, R175) and a transmit
answer that never comes leaves the block waiting, which is a next state (42_pulse_train_sequencer.md R124). So there is
no fault. -/
inductive Fault
deriving DecidableEq, Repr

/-- Why a step has no meaning. -/
inductive Refusal where
  /-- Raised by `exec` for a command not modelled yet; no arm of this model does. Safe. -/
  | notModelled (mnemonic : String)
  /-- Raised by `CAL p` and by `INIT p, CLK` without OVR when CLKHZ = 0: the spec gives them no meaning then
  (41_tick_calibrator.md R93, 93_implementation_defined.md U1). Safe: nothing is claimed of the step. -/
  | clockHzZero
  /-- Raised by the same commands when CLKDIV = 0 (R93, U2). Safe. -/
  | clockDivZero
  /-- Raised by the host's side of `step` when a command of a driver sequence is answered with ILLSTATE: the result of a
  sequence on an unconfigured block is given no meaning (44_driver_sequences.md R146, U13). Safe. -/
  | sequenceUnconfigured
deriving DecidableEq, Repr

/-- The terminator, and the reset value of a pulse-train entry (10_state.md R31). -/
def Descriptor.zero : Descriptor := ⟨0, 0⟩

/-- The block right after reset (10_state.md R31, 70_reset_and_hazards.md R187). -/
def Block.reset : Block where
  configured := false
  profile := .dshot150
  src := .unset
  ticks := ⟨0, 0, 0, 0⟩
  clkhz := 80000000
  clkdiv := 1
  ovrT0h := 0
  ovrT1h := 0
  frame := 0x0000
  pt := Vector.replicate 17 Descriptor.zero
  ptvalid := false
  pos := 0
  busy := false
  inFlight := none

/-- A channel right after reset: no response, no train handed over, no answer known, DSTATE Unarmed (log entry 8). -/
def Channel.reset : Channel where
  block := Block.reset
  response := none
  trains := 0
  answers := []
  dstate := .unarmed

/-- The machine right after reset: four reset channels (10_state.md R31, R33); the host has issued nothing (log entries 2
and 8). -/
def State.reset : State where
  motor1 := Channel.reset
  motor2 := Channel.reset
  motor3 := Channel.reset
  motor4 := Channel.reset
  sel := .motor1
  inputs := []
  seq := none
  trace := []

end Sys2Proof.Machine
end

