-- ==== Sys2Proof/Machine/Operands.lean ====
section
/-! DEFINITION. The packed forms in which operands and results travel: TPK, descriptor and response words, the codes of
SRC and of the statuses, and the cross-wiring of the low durations. -/

namespace Sys2Proof.Machine

open Sys2Proof

/-- The 2-bit code of SRC (10_state.md R16). -/
def srcCode : TimingSource → BitVec 2
  | .unset => 0
  | .table => 1
  | .clock => 2
  | .explicit => 3

/-- The 4-bit code of a status (60_exceptions.md R166). -/
def statusCode : Status → BitVec 4
  | .ok => 0
  | .txfail => 1
  | .illop => 2
  | .illreg => 3
  | .illstate => 4

/-- The tick counts of two high durations: each low duration is the other bit's high duration (10_state.md R18,
41_tick_calibrator.md R91, R97). -/
def crossWire (t0h t1h : Tick) : BitTicks := ⟨t0h, t1h, t1h, t0h⟩

/-- `TPK(t0h, t1h) = t1h ‖ t0h` (30_encoding.md R61). -/
def tpkWord (t0h t1h : Tick) : DataWord := t1h ++ t0h

/-- The TPK word of a tick table (30_encoding.md R61). -/
def BitTicks.tpk (t : BitTicks) : DataWord := tpkWord t.t0h t.t1h

/-- `DESC(h, l) = h ‖ l` (30_encoding.md R62). -/
def Descriptor.word (d : Descriptor) : DataWord := d.high ++ d.low

/-- The descriptor a bit selects: 1 the one-bit pair, 0 the zero-bit pair (42_pulse_train_sequencer.md R113). -/
def bitDescriptor (t : BitTicks) (b : Bool) : Descriptor :=
  if b then ⟨t.t1h, t.t1l⟩ else ⟨t.t0h, t.t0l⟩

/-- The 36-bit response word: status in bits 35:32, data in bits 31:0 (30_encoding.md R60). -/
def Response.word (r : Response) : ResponseWord := statusCode r.status ++ r.data

end Sys2Proof.Machine
end

