-- ==== Sys2Proof/Machine/Flags.lean ====
section
/-! DEFINITION. The block has no condition codes (10_state.md R30). Its flags are CONFIGURED and PTVALID: the STATUS view
that shows them, and the state checks that read them (60_exceptions.md R169). -/

namespace Sys2Proof.Machine

open Sys2Proof

/-- STATUS: bit 0 CONFIGURED, bit 1 PTVALID, bits 3:2 PROFILE, bits 5:4 SRC, the rest zero (10_state.md R25). -/
def Block.statusWord (b : Block) : DataWord :=
  0#26 ++ srcCode b.src ++ profileCode b.profile ++ BitVec.ofBool b.ptvalid ++ BitVec.ofBool b.configured

/-- `INIT` is permitted once after each reset (41_tick_calibrator.md R99). -/
def Block.permitsInit (b : Block) : Bool := !b.configured

/-- `BUILD` and `WRITE` need a configuration (60_exceptions.md R169). -/
def Block.permitsBuild (b : Block) : Bool := b.configured

/-- `SEND` needs a train (60_exceptions.md R169). -/
def Block.permitsSend (b : Block) : Bool := b.ptvalid

end Sys2Proof.Machine
end

