-- ==== Sys2Proof/Machine/Ops.lean ====
section
/-! DEFINITION. The shared operations over the state: the channels, the register read, accepting a command, answering it
(`respond` and `raise` of 00_scope.md R9, which is all there is of an exception here: 60_exceptions.md R174), emitting a
train, and waiting for the transmit answer. The block has no byte memory (20_memory.md R40), so there is no memory
operation. -/

namespace Sys2Proof.Machine

open Sys2Proof

/-- The four channels, in the fixed order of a group (44_driver_sequences.md R153). -/
def allChannels : List ChannelId := [.motor1, .motor2, .motor3, .motor4]

/-- Channel `k` (10_state.md R33). -/
def State.chan (s : State) : ChannelId → Channel
  | .motor1 => s.motor1
  | .motor2 => s.motor2
  | .motor3 => s.motor3
  | .motor4 => s.motor4

/-- The state with channel `k` replaced. -/
def State.setChan (s : State) (k : ChannelId) (c : Channel) : State :=
  match k with
  | .motor1 => { s with motor1 := c }
  | .motor2 => { s with motor2 := c }
  | .motor3 => { s with motor3 := c }
  | .motor4 => { s with motor4 := c }

/-- The channel the command being executed was given to. -/
def State.cur (s : State) : Channel := s.chan s.sel

/-- The block that executes the command. -/
def State.block (s : State) : Block := s.cur.block

/-- Change the executing channel, and no other. -/
def State.updCur (s : State) (f : Channel → Channel) : State := s.setChan s.sel (f s.cur)

/-- Change the executing block. -/
def State.updBlock (s : State) (f : Block → Block) : State :=
  s.updCur fun c => { c with block := f c.block }

/-- Append an observed event. -/
def State.log (s : State) (e : Event) : State := { s with trace := s.trace ++ [e] }

/-- `RegRead(r)`: the register map; none for an unmapped index (20_memory.md R41, R44). -/
def Block.regRead (b : Block) (r : RegIndex) : Option DataWord :=
  match r.toNat with
  | 0x00 => some b.statusWord
  | 0x01 => some (b.frame.setWidth 32)
  | 0x02 => some (b.ticks.t0h.setWidth 32)
  | 0x03 => some (b.ticks.t0l.setWidth 32)
  | 0x04 => some (b.ticks.t1h.setWidth 32)
  | 0x05 => some (b.ticks.t1l.setWidth 32)
  | 0x06 => some b.clkhz
  | 0x07 => some (b.clkdiv.setWidth 32)
  | 0x08 => some (tpkWord b.ovrT0h b.ovrT1h)
  | n => if 0x10 ≤ n then (b.pt[n - 0x10]?).map Descriptor.word else none

/-- Acceptance of a command word by channel `k`: BUSY becomes 1 and the response port is empty until the response
(20_memory.md R46, R47). -/
def State.accept (s : State) (k : ChannelId) : State :=
  { s with sel := k }.updCur fun c => { c with block := { c.block with busy := true }, response := none }

/-- `respond(S, data)`: the command ends; the response goes out and BUSY becomes 0 (00_scope.md R9, 20_memory.md R47). -/
def State.respond (s : State) (st : Status) (data : DataWord) : State :=
  (s.updCur fun c =>
    { c with block := { c.block with busy := false, inFlight := none }, response := some ⟨st, data⟩ }).log
      (.responded s.sel ⟨st, data⟩)

/-- `raise S = respond(S, 0)` with no state written by the command: taking an exception is this one response, since
nothing is saved, no mode changes and no handler is entered (00_scope.md R9, 60_exceptions.md R172, R174). -/
def State.raise (s : State) (st : Status) : State := s.respond st 0

/-- One `Emit(PT[POS])`, and POS goes on to the next descriptor (42_pulse_train_sequencer.md R126). -/
def State.emitOne (s : State) : State :=
  match s.block.pt[s.block.pos.toNat]? with
  | some d => (s.updBlock fun b => { b with pos := b.pos + 1 }).log (.emitted s.sel d.word)
  | none => s

/-- `n` successive `Emit`s. -/
def State.emitMany : Nat → State → State
  | 0, s => s
  | n + 1, s => State.emitMany n s.emitOne

/-- The emission step of `SEND` and `WRITE`: POS runs over 0 to 16, one `Emit` each, and returns to 0; the collaborator
has then been handed one more train (42_pulse_train_sequencer.md R121, R123, R126). -/
def State.emitTrain (s : State) : State :=
  (State.emitMany 17 (s.updBlock fun b => { b with pos := 0 })).updCur fun c =>
    { c with block := { c.block with pos := 0 }, trains := c.trains + 1 }

/-- The collaborator's answer to the latest train, if it has come (42_pulse_train_sequencer.md R122). -/
def Channel.answer? (c : Channel) : Option TxAnswer := c.answers.lookup c.trains

/-- The end of a `SEND` or `WRITE` on its answer: OK with its data on `done`, TXFAIL on `fail`
(42_pulse_train_sequencer.md R120, R125, 60_exceptions.md R170). -/
def State.complete (s : State) (okData : DataWord) (a : TxAnswer) : State :=
  match a with
  | .done => (s.log (.answered s.sel .done)).respond .ok okData
  | .fail => (s.log (.answered s.sel .fail)).raise .txfail

/-- `TxAnswer()`: with the answer at hand the command ends; without it the block waits, BUSY = 1, with the command in
flight and no response (42_pulse_train_sequencer.md R122, R124, 10_state.md R28). -/
def State.awaitAnswer (s : State) (okData : DataWord) : State :=
  match s.cur.answer? with
  | some a => s.complete okData a
  | none => s.updCur fun c =>
    { c with block := { c.block with busy := true, inFlight := some okData }, response := none }

/-- Reset of the executing block: every state element takes its reset value (43_system_commands.md R137). -/
def State.resetBlock (s : State) : State := s.updBlock fun _ => Block.reset

end Sys2Proof.Machine
end

