-- ==== Sys2Proof/Machine/Profiles.lean ====
section
/-! DEFINITION. The constant tables of the block, read-only and the same in every block (10_state.md R26), and the
command-code constants for the host (40_frame_codec.md R75). -/

namespace Sys2Proof.Machine

open Sys2Proof

/-- `bit_period_ns(p)`, the nominal bit period in ns; informational (41_tick_calibrator.md R87, R108). -/
def bitPeriodNs : SpeedProfile → Nat
  | .dshot150 => 6667
  | .dshot300 => 3333
  | .dshot600 => 1667
  | .dshot1200 => 833

/-- `H0(p)`, the zero-bit high time in half-nanoseconds (41_tick_calibrator.md R89). -/
def zeroHighHalfNs : SpeedProfile → Nat
  | .dshot150 => 5000
  | .dshot300 => 2500
  | .dshot600 => 1250
  | .dshot1200 => 625

/-- `H1(p)`, the one-bit high time in half-nanoseconds (41_tick_calibrator.md R89). -/
def oneHighHalfNs : SpeedProfile → Nat
  | .dshot150 => 10000
  | .dshot300 => 5000
  | .dshot600 => 2500
  | .dshot1200 => 1250

/-- The T0H column of the default table (41_tick_calibrator.md R95). -/
def defaultT0h : SpeedProfile → Tick
  | .dshot150 => 200
  | .dshot300 => 100
  | .dshot600 => 50
  | .dshot1200 => 25

/-- The T1H column of the default table (41_tick_calibrator.md R95). -/
def defaultT1h : SpeedProfile → Tick
  | .dshot150 => 400
  | .dshot300 => 200
  | .dshot600 => 100
  | .dshot1200 => 50

/-- The value of a named command code (40_frame_codec.md R75). -/
def commandCodeValue : CommandCode → ThrottleOperand
  | .motorStop => 0
  | .beep1 => 1
  | .beep2 => 2
  | .beep3 => 3
  | .beep4 => 4
  | .beep5 => 5
  | .escInfo => 6
  | .spinDirection1 => 7
  | .spinDirection2 => 8
  | .mode3dOff => 9
  | .mode3dOn => 10
  | .settingsRequest => 11
  | .saveSettings => 12
  | .extendedTelemetryEnable => 13
  | .extendedTelemetryDisable => 14

end Sys2Proof.Machine
end

