-- ==== Sys2Proof/Machine/Calibrator.lean ====
section
/-! DEFINITION. The tick calibrator: `from_clock`, the default table, the override, the resolution order, and the
commands SETCLK, SETDIV, SETOVR, INIT, CAL, LUT, BITPER (41_tick_calibrator.md). -/

namespace Sys2Proof.Machine

open Sys2Proof

/-- `ticks(H, clock_hz, divider)` in exact unsigned integers, ties up (R92). Its callers have checked that the divider is
not zero. -/
def tickCount (h hz d : Nat) : Nat := (h * hz + 1000000000 * d) / (2000000000 * d)

/-- `from_clock` of a profile on its domain (R91, R92). -/
def fromClock (p : SpeedProfile) (hz : ClockHz) (d : ClockDiv) : BitTicks :=
  crossWire (BitVec.ofNat 16 (tickCount (zeroHighHalfNs p) hz.toNat d.toNat))
    (BitVec.ofNat 16 (tickCount (oneHighHalfNs p) hz.toNat d.toNat))

/-- `default_ticks(p)` (R95). -/
def defaultTicks (p : SpeedProfile) : BitTicks := crossWire (defaultT0h p) (defaultT1h p)

/-- The clock-derived calibration from CLKHZ and CLKDIV, which has no meaning when either is zero (R93). -/
def Block.calibrate (b : Block) (p : SpeedProfile) : Except Refusal BitTicks :=
  if b.clkhz = 0 then .error .clockHzZero
  else if b.clkdiv = 0 then .error .clockDivZero
  else .ok (fromClock p b.clkhz b.clkdiv)

/-- The explicit override: the low durations are cross-wired from it (R97). -/
def Block.overrideTicks (b : Block) : BitTicks := crossWire b.ovrT0h b.ovrT1h

/-- The timing resolution order: override, else clock, else default table, with the source used (R98, R103). -/
def Block.resolveTiming (b : Block) (p : SpeedProfile) (o c : Bool) : Except Refusal (BitTicks × TimingSource) :=
  if o then .ok (b.overrideTicks, .explicit)
  else if c then (b.calibrate p).map fun t => (t, .clock)
  else .ok (defaultTicks p, .table)

/-- What INIT writes, all seven elements together (R103). -/
def Block.configure (b : Block) (p : SpeedProfile) (t : BitTicks) (src : TimingSource) : Block :=
  { b with ticks := t, profile := p, src := src, configured := true }

/-- SETCLK hz (R100). -/
def execSetclk (hz : ClockHz) (s : State) : Host.Outcome State Fault Refusal :=
  .next ((s.updBlock fun b => { b with clkhz := hz }).respond .ok 0)

/-- SETDIV d (R101). -/
def execSetdiv (d : ClockDiv) (s : State) : Host.Outcome State Fault Refusal :=
  .next ((s.updBlock fun b => { b with clkdiv := d }).respond .ok 0)

/-- SETOVR t0h, t1h (R102). -/
def execSetovr (t0h t1h : Tick) (s : State) : Host.Outcome State Fault Refusal :=
  .next ((s.updBlock fun b => { b with ovrT0h := t0h, ovrT1h := t1h }).respond .ok 0)

/-- INIT p, o, c (R103). -/
def execInit (p : SpeedProfile) (o c : Bool) (s : State) : Host.Outcome State Fault Refusal :=
  if s.block.permitsInit then
    match s.block.resolveTiming p o c with
    | .ok (t, src) => .next ((s.updBlock fun b => b.configure p t src).respond .ok t.tpk)
    | .error r => .refused r
  else .next (s.raise .illstate)

/-- CAL p (R104). -/
def execCal (p : SpeedProfile) (s : State) : Host.Outcome State Fault Refusal :=
  match s.block.calibrate p with
  | .ok t => .next (s.respond .ok t.tpk)
  | .error r => .refused r

/-- LUT p (R105). -/
def execLut (p : SpeedProfile) (s : State) : Host.Outcome State Fault Refusal :=
  .next (s.respond .ok (defaultTicks p).tpk)

/-- BITPER p (R106). -/
def execBitper (p : SpeedProfile) (s : State) : Host.Outcome State Fault Refusal :=
  .next (s.respond .ok (BitVec.ofNat 32 (bitPeriodNs p)))

end Sys2Proof.Machine
end

