-- ==== Sys2Proof/Machine/FrameCodec.lean ====
section
/-! DEFINITION. The frame encoder: `create_frame`, `decode_frame` and the command ENCODE (40_frame_codec.md). -/

namespace Sys2Proof.Machine

open Sys2Proof

/-- The 12-bit payload: the value masked to 11 bits, shifted left by one, with the telemetry flag as bit 0 (R72). -/
def framePayload (v : ThrottleOperand) (t : Bool) : BitVec 16 :=
  ((v &&& 0x7FF) <<< 1) ||| (BitVec.ofBool t).setWidth 16

/-- The 4-bit checksum of a payload (R72). -/
def frameChecksum (payload : BitVec 16) : BitVec 16 :=
  (payload ^^^ (payload >>> 4) ^^^ (payload >>> 8)) &&& 0xF

/-- `create_frame(value, telemetry)` (R72). -/
def createFrame (v : ThrottleOperand) (t : Bool) : Frame :=
  (framePayload v t <<< 4) ||| frameChecksum (framePayload v t)

/-- `frame[15:5]`, the value field (R71, R79). -/
def frameValue (f : Frame) : BitVec 11 := f.extractLsb' 5 11

/-- `frame[4]`, the telemetry request (R71, R79). -/
def frameTelemetry (f : Frame) : Bool := f.getLsbD 4

/-- `frame[3:0]`, the checksum (R71, R79). -/
def frameCheck (f : Frame) : BitVec 4 := f.extractLsb' 0 4

/-- `decode_frame(frame16)`: value, telemetry, checksum; the block never does it (R79). -/
def decodeFrame (f : Frame) : BitVec 11 × Bool × BitVec 4 :=
  (frameValue f, frameTelemetry f, frameCheck f)

/-- The frame's four nibbles XOR to zero: the words `create_frame` can return (R73). -/
def validFrame (f : Frame) : Bool :=
  (f ^^^ (f >>> 4) ^^^ (f >>> 8) ^^^ (f >>> 12)) &&& 0xF == 0

/-- ENCODE v, t (R78). -/
def execEncode (v : ThrottleOperand) (t : Bool) (s : State) : Host.Outcome State Fault Refusal :=
  .next ((s.updBlock fun b => { b with frame := createFrame v t }).respond .ok ((createFrame v t).setWidth 32))

end Sys2Proof.Machine
end

