-- ==== Sys2Proof/Machine/Sequencer.lean ====
section
/-! DEFINITION. The pulse-train sequencer: `build` and the commands BUILD, SEND, WRITE (42_pulse_train_sequencer.md). -/

namespace Sys2Proof.Machine

open Sys2Proof

/-- Entry `i` of a train: frame bit `15 - i` for `i < 16`, then the terminator (R112, R114, R116). -/
def trainEntry (f : Frame) (t : BitTicks) (i : Nat) : Descriptor :=
  if i < 16 then bitDescriptor t (f.getLsbD (15 - i)) else Descriptor.zero

/-- `build(frame16, ticks)`, always 17 entries (R112, R115). -/
def buildTrain (f : Frame) (t : BitTicks) : PulseTrain := Vector.ofFn fun i => trainEntry f t i.val

/-- PT holds the train of a frame under the block's tick table (R119, R125). -/
def Block.loadTrain (b : Block) (f : Frame) : Block :=
  { b with pt := buildTrain f b.ticks, ptvalid := true }

/-- How long one descriptor lasts, in ticks (R117, R118). -/
def Descriptor.duration (d : Descriptor) : Nat := d.high.toNat + d.low.toNat

/-- How long a train lasts, in ticks (R118). -/
def trainDuration (pt : PulseTrain) : Nat := (pt.toList.map Descriptor.duration).sum

/-- BUILD f (R119). -/
def execBuild (f : Frame) (s : State) : Host.Outcome State Fault Refusal :=
  if s.block.permitsBuild then .next ((s.updBlock fun b => b.loadTrain f).respond .ok 0)
  else .next (s.raise .illstate)

/-- SEND (R120). -/
def execSend (s : State) : Host.Outcome State Fault Refusal :=
  if s.block.permitsSend then .next (s.emitTrain.awaitAnswer 0)
  else .next (s.raise .illstate)

/-- WRITE v, t (R125): FRAME, PT and PTVALID are written before the emission, so they stand on TXFAIL (60_exceptions.md
R171). -/
def execWrite (v : ThrottleOperand) (t : Bool) (s : State) : Host.Outcome State Fault Refusal :=
  if s.block.permitsBuild then
    .next (((s.updBlock fun b => { b with frame := createFrame v t }.loadTrain (createFrame v t)).emitTrain).awaitAnswer
      ((createFrame v t).setWidth 32))
  else .next (s.raise .illstate)

end Sys2Proof.Machine
end

