-- ==== Sys2Proof/Machine/System.lean ====
section
/-! DEFINITION. The system commands NOP, RST, RD (43_system_commands.md). -/

namespace Sys2Proof.Machine

open Sys2Proof

/-- NOP (R136). -/
def execNop (s : State) : Host.Outcome State Fault Refusal :=
  .next (s.respond .ok 0)

/-- RST: every element of the block takes its reset value, then the response; the collaborator and the driver's DSTATE
are not touched (R137). -/
def execRst (s : State) : Host.Outcome State Fault Refusal :=
  .next (s.resetBlock.respond .ok 0)

/-- RD r (R138): ILLREG for an unmapped index (60_exceptions.md R168). -/
def execRd (r : RegIndex) (s : State) : Host.Outcome State Fault Refusal :=
  match s.block.regRead r with
  | some d => .next (s.respond .ok d)
  | none => .next (s.raise .illreg)

end Sys2Proof.Machine
end

