-- ==== Sys2Proof/Machine/Dispatch.lean ====
section
/-! DEFINITION. One arm per command: the execution of a decoded command on the channel `s.sel`. -/

namespace Sys2Proof.Machine

open Sys2Proof

def exec (i : Instr) (s : State) : Host.Outcome State Fault Refusal :=
  match i with
  | .nop => Sys2Proof.Machine.execNop s
  | .rst => Sys2Proof.Machine.execRst s
  | .setclk hz => Sys2Proof.Machine.execSetclk hz s
  | .setdiv d => Sys2Proof.Machine.execSetdiv d s
  | .setovr t0h t1h => Sys2Proof.Machine.execSetovr t0h t1h s
  | .init p o c => Sys2Proof.Machine.execInit p o c s
  | .cal p => Sys2Proof.Machine.execCal p s
  | .lut p => Sys2Proof.Machine.execLut p s
  | .bitper p => Sys2Proof.Machine.execBitper p s
  | .encode v t => Sys2Proof.Machine.execEncode v t s
  | .build f => Sys2Proof.Machine.execBuild f s
  | .send => Sys2Proof.Machine.execSend s
  | .write v t => Sys2Proof.Machine.execWrite v t s
  | .rd r => Sys2Proof.Machine.execRd r s

end Sys2Proof.Machine
end

