-- ==== Sys2Proof/Machine/Driver.lean ====
section
/-! DEFINITION. Everything around the execution of one command: giving a word to a command port (20_memory.md R46 to
R49), the driver sequences of the host (44_driver_sequences.md), the wait for a transmit answer, and the reset input
(70_reset_and_hazards.md R186, R188). -/

namespace Sys2Proof.Machine

open Sys2Proof

/-- ARM_FRAMES (00_scope.md R7). -/
def armFrames : Nat := 100

/-- ARM_DELAY_MS (00_scope.md R7). -/
def armDelayMs : Nat := 20

/-- One tick of the arming of some channels: the zero-throttle, non-telemetry frame to each in order, then one wait
(44_driver_sequences.md R150, R151, R154). -/
def armTick (ks : List ChannelId) : List HostItem :=
  ks.map (fun k => .issue k (.write 0 false)) ++ [.waitMs armDelayMs]

/-- `n` ticks of the arming of some channels. -/
def armTicks (ks : List ChannelId) : Nat → List HostItem
  | 0 => []
  | n + 1 => armTick ks ++ armTicks ks n

/-- The expansion of a driver operation (44_driver_sequences.md R148, R149, R150, R154, R155). -/
def planOf : DriverOp → List HostItem
  | .construct k p ovr clk =>
    [.issue k .rst] ++
    (match ovr with | some (t0h, t1h) => [.issue k (.setovr t0h t1h)] | none => []) ++
    (match clk with | some (hz, d) => [.issue k (.setclk hz), .issue k (.setdiv d)] | none => []) ++
    [.issue k (.init p ovr.isSome clk.isSome)]
  | .writeThrottle k v t => [.issue k (.write v t)]
  | .arm k => armTicks [k] armFrames
  | .garm => armTicks allChannels armFrames
  | .gupd v1 v2 v3 v4 =>
    [.issue .motor1 (.write v1 false), .issue .motor2 (.write v2 false),
     .issue .motor3 (.write v3 false), .issue .motor4 (.write v4 false)]

/-- The driver notes DSTATE of channel `k` (44_driver_sequences.md R152). -/
def State.setDState (s : State) (k : ChannelId) (d : DState) : State :=
  s.setChan k { s.chan k with dstate := d }

/-- What a completed operation does to DSTATE: CONSTRUCT sets Unarmed, ARM and GARM set Armed, the others leave it
(44_driver_sequences.md R152). -/
def State.noteSuccess (s : State) : DriverOp → State
  | .construct k _ _ _ => s.setDState k .unarmed
  | .writeThrottle _ _ _ => s
  | .arm k => s.setDState k .armed
  | .garm =>
    (((s.setDState .motor1 .armed).setDState .motor2 .armed).setDState .motor3 .armed).setDState .motor4 .armed
  | .gupd _ _ _ _ => s

/-- A driver sequence with nothing left to do returns Ok (44_driver_sequences.md R146, R152). -/
def State.finishSequence (s : State) (op : DriverOp) : State :=
  ({ s with seq := none }.noteSuccess op).log (.returned op .ok)

/-- A driver sequence whose WRITE was answered TXFAIL stops at once: DSTATE of that channel becomes Unspecified, nothing
more is issued, and it returns TransmitFailure (44_driver_sequences.md R150, R152, R154 to R156, 60_exceptions.md R176). -/
def State.abortSequence (s : State) (op : DriverOp) : State :=
  ({ s with seq := none }.setDState s.sel .unspecified).log (.returned op .transmitFailure)

/-- The host reads the response of a command of its sequence: it goes on, or stops on TXFAIL. A sequence on an
unconfigured block has no result (44_driver_sequences.md R146). -/
def State.hostReads (s : State) (q : Sequence) : Status → Host.Outcome State Fault Refusal
  | .ok => .next s
  | .txfail => .next (s.abortSequence q.op)
  | .illop => .next s
  | .illreg => .next s
  | .illstate => .refused .sequenceUnconfigured

/-- What the driver notes of the response to a command given outside a driver sequence: after a transmit failure DSTATE of
the channel is Unspecified (60_exceptions.md R171, 93_implementation_defined.md U3, log entry 20). -/
def State.noteStatus (s : State) : Status → State
  | .ok => s
  | .txfail => s.setDState s.sel .unspecified
  | .illop => s
  | .illreg => s
  | .illstate => s

/-- After the block has moved: the host reads the response if there is one, in a driver sequence or outside one. -/
def State.react (s : State) : Host.Outcome State Fault Refusal :=
  match s.cur.response with
  | none => .next s
  | some r =>
    match s.seq with
    | none => .next (s.noteStatus r.status)
    | some q => s.hostReads q r.status

/-- What the driver notes of a word it gives outside a driver sequence: a driver that issues `RST` goes back to Unarmed
(43_system_commands.md R137, log entry 20). -/
def State.noteWord (s : State) (k : ChannelId) (w : CommandWord) : State :=
  match decode w with
  | .ok .rst => s.setDState k .unarmed
  | _ => s

/-- The host's reading after an outcome of the block. -/
def afterBlock : Host.Outcome State Fault Refusal → Host.Outcome State Fault Refusal
  | .next s => s.react
  | .fault r => .fault r
  | .refused r => .refused r

/-- An accepted word is decoded and executed; an illegal word is answered with ILLOP (30_encoding.md R59, R69,
60_exceptions.md R167). -/
def State.runWord (s : State) (w : CommandWord) : Host.Outcome State Fault Refusal :=
  match decode w with
  | .ok i => Sys2Proof.Machine.exec i s
  | .error _ => .next (s.raise .illop)

/-- Channel `k` accepts the word and executes it (20_memory.md R46, R47). -/
def State.issue (s : State) (k : ChannelId) (w : CommandWord) : Host.Outcome State Fault Refusal :=
  afterBlock ((s.accept k).runWord w)

/-- The transmit answer has come: the command in flight ends (42_pulse_train_sequencer.md R120, R125). -/
def State.resume (s : State) (a : TxAnswer) : Host.Outcome State Fault Refusal :=
  match s.block.inFlight with
  | some d => (s.complete d a).react
  | none => .next s

/-- The sequence waits for a response that will not come. -/
def Sequence.loseResponse (q : Sequence) : Sequence := ⟨q.op, .lostResponse :: q.todo⟩

/-- The reset input of channel `k`: its block goes to the reset state at once and gives no response; the collaborator is
not reset, and a late answer belongs to a train no longer awaited (70_reset_and_hazards.md R186, R188). A driver sequence
that was waiting for the lost response goes on waiting for it (44_driver_sequences.md R146, R157, log entry 7). -/
def State.hardwareReset (s : State) (k : ChannelId) : State :=
  { s with seq := if s.sel = k ∧ (s.chan k).block.busy = true then s.seq.map Sequence.loseResponse else s.seq }.setChan k
    { s.chan k with block := Block.reset, response := none }

/-- An event of the environment takes place. -/
def State.applyEnv (s : State) : EnvEvent → State
  | .answer k n a => s.setChan k { s.chan k with answers := (s.chan k).answers ++ [(n, a)] }
  | .hardwareReset k => s.hardwareReset k

/-- The first environment event to come, and the inputs without it: the host's own actions are held at the port while a
command is executing, neither lost nor done early (20_memory.md R48). -/
def takeEnv : List Input → Option (EnvEvent × List Input)
  | [] => none
  | .env e :: rest => some (e, rest)
  | .host h :: rest => (takeEnv rest).map fun p => (p.1, .host h :: p.2)

/-- The host is held: the next environment event takes place, and without one everything stays as it is. -/
def State.heldStep (s : State) : Host.Outcome State Fault Refusal :=
  match takeEnv s.inputs with
  | some (e, rest) => .next ({ s with inputs := rest }.applyEnv e)
  | none => .next s

/-- A block waits for its answer: it ends the command if the answer is there; else the next environment event takes
place; else it goes on waiting, without bound (42_pulse_train_sequencer.md R124). -/
def State.waitStep (s : State) : Host.Outcome State Fault Refusal :=
  match s.cur.answer? with
  | some a => s.resume a
  | none => s.heldStep

/-- The next action of a driver sequence (44_driver_sequences.md R146, R147). A sequence cannot be cancelled and has no
timeout, so the wait for a lost response does not end (R157). -/
def State.sequenceStep (s : State) (q : Sequence) : Host.Outcome State Fault Refusal :=
  match q.todo with
  | [] => .next (s.finishSequence q.op)
  | .waitMs ms :: rest => .next ({ s with seq := some ⟨q.op, rest⟩ }.log (.waited ms))
  | .issue k i :: rest =>
    if (s.chan k).block.busy then .next s
    else { s with seq := some ⟨q.op, rest⟩ }.issue k (encode i)
  | .lostResponse :: _ => s.heldStep

/-- The host's next action of its own. -/
def State.hostStep (s : State) (rest : List Input) : HostOp → Host.Outcome State Fault Refusal
  | .command k w =>
    if (s.chan k).block.busy then .next s else ({ s with inputs := rest }.noteWord k w).issue k w
  | .waitMs ms => .next ({ s with inputs := rest }.log (.waited ms))
  | .call op => .next { s with inputs := rest, seq := some ⟨op, planOf op⟩ }

/-- The outside world's next action; with none to come the machine is idle (20_memory.md R49). -/
def State.inputStep (s : State) : Host.Outcome State Fault Refusal :=
  match s.inputs with
  | [] => .next s
  | .env e :: rest => .next ({ s with inputs := rest }.applyEnv e)
  | .host h :: rest => s.hostStep rest h

/-- One move of the machine: a block that waits has the turn, then a driver sequence in progress, then the next input. -/
def State.advance (s : State) : Host.Outcome State Fault Refusal :=
  if s.block.busy then s.waitStep
  else
    match s.seq with
    | some q => s.sequenceStep q
    | none => s.inputStep

/-- The state in which the host's very next action is to give channel `s.sel` the word `w`. -/
def State.placeCommand (s : State) (w : CommandWord) : State :=
  { s.updBlock fun b => { b with busy := false, inFlight := none } with
    inputs := .host (.command s.sel w) :: s.inputs, seq := none }

end Sys2Proof.Machine
end

