-- ==== Sys2Proof/Machine/Step.lean ====
section
/-! DEFINITION. One step: the complete execution of one command, one wait of the host, or one event of the environment
(00_scope.md R10). The block fetches nothing (20_memory.md R55): a command comes from the host. -/

namespace Sys2Proof.Machine

open Sys2Proof

/-- One step of the machine. -/
def step (s : State) : Host.Outcome State Fault Refusal := s.advance

/-- `s` with the word `w` of `nbits` bits as the host's next command on channel `s.sel`, and nothing that would come
before it: no command in flight, no driver sequence in progress. -/
def State.withFetchWord (s : State) (nbits w : Nat) : State :=
  s.placeCommand (BitVec.ofNat 40 (w % 2 ^ nbits))

end Sys2Proof.Machine
end

