-- ==== Sys2Proof/Safety.lean ====
section
/-! DEFINITION. What a sound state is: the relations between state elements that the rules promise for the life of a
block, and the state in which a command can be given. -/

namespace Sys2Proof.Machine

open Sys2Proof

/-- What holds of one block between steps. -/
structure Block.Inv (b : Block) : Prop where
  /-- T0L = T1H and T1L = T0H whenever CONFIGURED = 1 (10_state.md R18). -/
  crossWired : b.configured = true → b.ticks.t0l = b.ticks.t1h ∧ b.ticks.t1l = b.ticks.t0h
  /-- SRC is NONE exactly while not configured (10_state.md R16). -/
  source : b.src = .unset ↔ b.configured = false
  /-- A clock-derived or default table has `t0h <= t1h <= 21475` (41_tick_calibrator.md R94, R95). -/
  range : b.src = .clock ∨ b.src = .table → b.ticks.t0h ≤ b.ticks.t1h ∧ b.ticks.t1h.toNat ≤ 21475
  /-- A train is only there on a configured block (60_exceptions.md R169). -/
  trainConfigured : b.ptvalid = true → b.configured = true
  /-- PT holds a train of some frame under the block's own table (10_state.md R23, R24). -/
  train : b.ptvalid = true → ∃ f, b.pt = buildTrain f b.ticks
  /-- PT holds the reset zeros while PTVALID = 0 (20_memory.md R42). -/
  noTrain : b.ptvalid = false → b.pt = Block.reset.pt
  /-- FRAME holds a word `create_frame` can return (10_state.md R22, 40_frame_codec.md R73). -/
  frame : validFrame b.frame = true
  /-- POS is 0 between commands and while waiting for an answer (10_state.md R27). -/
  pos : b.pos = 0
  /-- BUSY is 1 exactly while a command is in flight (10_state.md R28). -/
  busy : b.busy = b.inFlight.isSome
  /-- A command in flight has a train (42_pulse_train_sequencer.md R120, R125). -/
  inFlight : b.busy = true → b.ptvalid = true

/-- What holds of the whole machine between steps. -/
structure State.Inv (s : State) : Prop where
  /-- Every block is sound. -/
  block : ∀ k, (s.chan k).block.Inv
  /-- Only the channel the host is waiting for executes a command (44_driver_sequences.md R158). -/
  oneBusy : ∀ k, k ≠ s.sel → (s.chan k).block.busy = false
  /-- No response stands on the port of a block that is executing (20_memory.md R47). -/
  noResponse : ∀ k, (s.chan k).block.busy = true → (s.chan k).response = none

/-- What a command leaves alone, whatever it does: the other channels, the host's side, and of the executing channel the
collaborator's answers and the driver's DSTATE (10_state.md R29, R33). -/
structure Elsewhere (s t : State) : Prop where
  others  : ∀ k, k ≠ s.sel → t.chan k = s.chan k
  sel     : t.sel = s.sel
  inputs  : t.inputs = s.inputs
  seq     : t.seq = s.seq
  answers : t.cur.answers = s.cur.answers
  dstate  : t.cur.dstate = s.cur.dstate

/-- The same event on channel `k`. -/
def Event.onChannel (k : ChannelId) : Event → Event
  | .emitted _ d => .emitted k d
  | .answered _ a => .answered k a
  | .responded _ r => .responded k r
  | .waited ms => .waited ms
  | .returned op r => .returned op r

/-- A command has ended: from `s` the events `es` and then the response `(st, data)` were observed, the response stands on
the port, and everything elsewhere is as it was. -/
structure Ended (s t : State) (es : List Event) (st : Status) (data : DataWord) : Prop where
  response  : t.cur.response = some ⟨st, data⟩
  trace     : t.trace = s.trace ++ es ++ [.responded s.sel ⟨st, data⟩]
  elsewhere : Elsewhere s t

/-- A command waits for its transmit answer: the events `es` were observed, no response is on the port. -/
structure Waiting (s t : State) (es : List Event) : Prop where
  response  : t.cur.response = none
  trace     : t.trace = s.trace ++ es
  elsewhere : Elsewhere s t

/-- The block with no command executing. -/
def Block.idle (b : Block) : Block := { b with busy := false, inFlight := none }

/-- The 17 descriptor words of a train on their way to the collaborator of channel `k`, entry 0 first
(20_memory.md R43). -/
def trainEvents (k : ChannelId) (pt : PulseTrain) : List Event := pt.toList.map fun d => .emitted k d.word

/-- A command that emits nothing has ended with the response `(st, data)` and has left the block as `b`, no longer
executing. -/
structure Quiet (s t : State) (b : Block) (st : Status) (data : DataWord) : Prop where
  block  : t.block = b.idle
  trains : t.cur.trains = s.cur.trains
  ended  : Ended s t [] st data

/-- A command that emits the train of `b` has ended on the answer `a` with the response `(st, data)` and has left the
block as `b` with POS = 0, no longer executing (42_pulse_train_sequencer.md R120, R125, R126). -/
structure Sent (s t : State) (b : Block) (a : TxAnswer) (st : Status) (data : DataWord) : Prop where
  block  : t.block = { b with pos := 0 }.idle
  trains : t.cur.trains = s.cur.trains + 1
  ended  : Ended s t (trainEvents s.sel b.pt ++ [.answered s.sel a]) st data

/-- A command has emitted the train of `b` and waits for its answer: BUSY = 1, in flight with the data `okData` of its OK
response, POS = 0 (42_pulse_train_sequencer.md R124, 10_state.md R28). -/
structure SentWaiting (s t : State) (b : Block) (okData : DataWord) : Prop where
  block   : t.block = { b with pos := 0, busy := true, inFlight := some okData }
  trains  : t.cur.trains = s.cur.trains + 1
  waiting : Waiting s t (trainEvents s.sel b.pt)

/-- The block answers the word with ILLOP and nothing else happens (30_encoding.md R59, 60_exceptions.md R172). -/
def AnswersIllop (s : State) (w : CommandWord) : Prop :=
  ∃ t, s.runWord w = .next t ∧ Quiet s t s.block .illop 0

/-- The collaborator's answer to the next train it is handed, if it is to be at hand when the train is
(42_pulse_train_sequencer.md R122). -/
def State.nextAnswer (s : State) : Option TxAnswer := s.cur.answers.lookup (s.cur.trains + 1)

/-- The host may give a command: no block executes the latest one and no driver sequence is in progress. -/
structure State.Ready (s : State) : Prop where
  idle  : s.block.busy = false
  noSeq : s.seq = none

end Sys2Proof.Machine
end

