-- ==== Sys2Proof/Certificates/Slice0/Obligations.lean ====
section
/-! DEFINITION. What is claimed of the machine. `Quiet`, `Sent`, `SentWaiting` and `Elsewhere` (Safety.lean) say what a
command leaves alone as well as what it does: each equates the whole block after with the whole block before but for the
elements named, so each statement of a command is its result and its frame in one. -/

open Sys2Proof Sys2Proof.Machine

/-! Encoding. -/

/-- The words of the spec's worked examples decode to the commands they stand for, one or more for each command, and the
twelve illegal words of its refusal table are rejected (R78, R100 to R106, R119, R120, R125, R136 to R138, 95_test_vectors.md). -/
def Obligations.WorkedExampleWordsDecode : Prop :=
  decode 0x0000000000 = .ok .nop ∧ decode 0x0100000000 = .ok .rst ∧
  decode 0x0202625A00 = .ok (.setclk 40000000) ∧ decode 0x0300000002 = .ok (.setdiv 2) ∧
  decode 0x040078003C = .ok (.setovr 60 120) ∧ decode 0x0500000002 = .ok (.init .dshot600 false false) ∧
  decode 0x0500000101 = .ok (.init .dshot300 true false) ∧ decode 0x0500000203 = .ok (.init .dshot1200 false true) ∧
  decode 0x0600000003 = .ok (.cal .dshot1200) ∧ decode 0x0700000002 = .ok (.lut .dshot600) ∧
  decode 0x0800000000 = .ok (.bitper .dshot150) ∧ decode 0x09000003E8 = .ok (.encode 1000 false) ∧
  decode 0x0900010417 = .ok (.encode 1047 true) ∧ decode 0x0A00007D0A = .ok (.build 0x7D0A) ∧
  decode 0x0B00000000 = .ok .send ∧ decode 0x0C000107FF = .ok (.write 2047 true) ∧
  decode 0x0D00000004 = .ok (.rd 0x04) ∧ decode 0x0D000000FF = .ok (.rd 0xFF) ∧
  decode 0x0E00000000 = .error .reservedOpcode ∧ decode 0xFF00000000 = .error .reservedOpcode ∧
  decode 0x0000000001 = .error .reservedBit ∧ decode 0x0300000100 = .error .reservedBit ∧
  decode 0x0500000004 = .error .reservedBit ∧ decode 0x0500000400 = .error .reservedBit ∧
  decode 0x0600000004 = .error .reservedBit ∧ decode 0x0900020000 = .error .reservedBit ∧
  decode 0x0A00010000 = .error .reservedBit ∧ decode 0x0B00000001 = .error .reservedBit ∧
  decode 0x0C000203E8 = .error .reservedBit ∧ decode 0x0D00000100 = .error .reservedBit

/-- Decoding an encoded command gives it back, every operand at every value its field admits (R56, R57, R58, R69). -/
def Obligations.DecodeOfEncode : Prop :=
  ∀ i : Instr, decode (encode i) = .ok i

/-- Encoding what was decoded gives the word back: a legal word has one meaning and no bit of it is dropped (R57, R59). -/
def Obligations.EncodeOfDecode : Prop :=
  ∀ (w : CommandWord) (i : Instr), decode w = .ok i → encode i = w

/-- A word is decoded to a command exactly when it selects a row of the opcode map, no word selects two rows, and a word is
rejected as a reserved opcode exactly when its opcode is above 0x0D, whatever its argument; any other rejection is for a
reserved bit (R58, R59, R69). -/
def Obligations.DecodeAcceptsExactlyTheOpcodeMap : Prop :=
  ∀ w : CommandWord, ((∃ i, decode w = .ok i) ↔ wellFormedWord w = true) ∧
    (opcodeMap.filter fun r => r.selects w).length ≤ 1 ∧
    (decode w = .error .reservedOpcode ↔ 0x0D < (opField w).toNat)

/-- Every line of the assembler notation whose operands are in range is encoded as a word that decodes to the command it
names (R66). -/
def Obligations.AssemblerFormsEncode : Prop :=
  ∀ a : Asm, a.wellFormed = true → a.word = encode a.instr ∧ decode a.word = .ok a.instr

/-- The packed words have their fields in their places: TPK and the descriptor word are upper ‖ lower, the response word
is status over data, and STATUS is SRC ‖ PROFILE ‖ PTVALID ‖ CONFIGURED under 26 zero bits; with the codes of the statuses,
of SRC and of the profiles (R16, R25, R60 to R62, R64, R166). -/
def Obligations.PackedWordLayouts : Prop :=
  (∀ t0h t1h : Tick, (tpkWord t0h t1h).toNat = t1h.toNat * 65536 + t0h.toNat) ∧
  (∀ d : Descriptor, d.word.toNat = d.high.toNat * 65536 + d.low.toNat) ∧
  (∀ r : Response, r.word.toNat =
    (match r.status with | .ok => 0 | .txfail => 1 | .illop => 2 | .illreg => 3 | .illstate => 4) * 4294967296 +
      r.data.toNat) ∧
  (∀ b : Block, b.statusWord.toNat =
    (match b.src with | .unset => 0 | .table => 1 | .clock => 2 | .explicit => 3) * 16 +
    (match b.profile with | .dshot150 => 0 | .dshot300 => 1 | .dshot600 => 2 | .dshot1200 => 3) * 4 +
    b.ptvalid.toNat * 2 + b.configured.toNat)

/-! The frame encoder. -/

/-- `create_frame`, over natural numbers (R72), with its worked example. -/
def Obligations.CreateFrameFormula : Prop :=
  (∀ (v : ThrottleOperand) (t : Bool),
    let payload := (v.toNat &&& 0x7FF) <<< 1 ||| t.toNat
    (createFrame v t).toNat = payload <<< 4 ||| ((payload ^^^ payload >>> 4 ^^^ payload >>> 8) &&& 0xF)) ∧
  createFrame 1000 false = 0x7D0A

/-- Decoding a created frame recovers the masked value and the telemetry bit, and the checksum recomputed from the
recovered payload is the stored one, for every 16-bit value (R79). -/
def Obligations.FrameRoundTrip : Prop :=
  ∀ (v : ThrottleOperand) (t : Bool),
    frameValue (createFrame v t) = v.setWidth 11 ∧ frameTelemetry (createFrame v t) = t ∧
    (frameCheck (createFrame v t)).setWidth 16 = frameChecksum (createFrame v t >>> 4)

/-- Only the low 11 bits of the operand matter, they are the frame's value field, and no trace of the truncation is left:
ENCODE and WRITE act as on the masked operand; with the worked examples (R74). -/
def Obligations.FrameTruncation : Prop :=
  (∀ (v : ThrottleOperand) (t : Bool), createFrame v t = createFrame (v &&& 0x7FF) t ∧
    (frameValue (createFrame v t)).toNat = v.toNat &&& 0x7FF ∧
    ∀ s : State, exec (.encode v t) s = exec (.encode (v &&& 0x7FF) t) s ∧
      exec (.write v t) s = exec (.write (v &&& 0x7FF) t) s) ∧
  createFrame 2048 false = 0x0000 ∧ createFrame 3048 false = 0x7D0A ∧ createFrame 0xFFFF true = 0xFFFF

/-- The frames `create_frame` can return are exactly the words whose four nibbles XOR to zero (R73). -/
def Obligations.ValidFramesAreTheCreatedOnes : Prop :=
  ∀ f : Frame, validFrame f = true ↔ ∃ (v : ThrottleOperand) (t : Bool), createFrame v t = f

/-- ENCODE completes in every state, configured or not, with the frame as its data and in FRAME, and writes nothing else; a
word of its opcode with a bit of arg[31:17] set is answered with ILLOP; with the corner cases (R78, R80). -/
def Obligations.EncodeLatchesFrame : Prop :=
  (∀ (v : ThrottleOperand) (t : Bool) (s : State), ∃ s', exec (.encode v t) s = .next s' ∧
    Quiet s s' { s.block with frame := createFrame v t } .ok ((createFrame v t).setWidth 32)) ∧
  (∀ w : CommandWord, opField w = 0x09 → (argField w).extractLsb' 17 15 = 0 →
    decode w = .ok (.encode ((argField w).extractLsb' 0 16) ((argField w).getLsbD 16))) ∧
  (∀ (w : CommandWord) (s : State), opField w = 0x09 → (argField w).extractLsb' 17 15 ≠ 0 → AnswersIllop s w) ∧
  createFrame 0 false = 0x0000 ∧ createFrame 2047 true = 0xFFFF ∧
  decode 0x09000003E8 = .ok (.encode 1000 false) ∧ (createFrame 1000 false).setWidth 32 = 0x00007D0A#32

/-! The tick calibrator. -/

/-- SETCLK completes in every state, zero included: CLKHZ is the operand, nothing else is written; reserved bits it has
none, so every word of its opcode is one (R100). -/
def Obligations.SetclkStoresClock : Prop :=
  (∀ (hz : ClockHz) (s : State), ∃ t, exec (.setclk hz) s = .next t ∧ Quiet s t { s.block with clkhz := hz } .ok 0) ∧
  (∀ w : CommandWord, opField w = 0x02 → decode w = .ok (.setclk (argField w))) ∧
  decode 0x0202625A00 = .ok (.setclk 40000000)

/-- SETDIV completes in every state, zero included: CLKDIV is the operand, nothing else is written; a word of its opcode
with a bit of arg[31:8] set is answered with ILLOP (R101). -/
def Obligations.SetdivStoresDivider : Prop :=
  (∀ (d : ClockDiv) (s : State), ∃ t, exec (.setdiv d) s = .next t ∧ Quiet s t { s.block with clkdiv := d } .ok 0) ∧
  (∀ w : CommandWord, opField w = 0x03 → (argField w).extractLsb' 8 24 = 0 →
    decode w = .ok (.setdiv ((argField w).extractLsb' 0 8))) ∧
  (∀ (w : CommandWord) (s : State), opField w = 0x03 → (argField w).extractLsb' 8 24 ≠ 0 → AnswersIllop s w) ∧
  decode 0x0300000002 = .ok (.setdiv 2)

/-- SETOVR completes in every state with any two counts: both override registers are written, nothing else, and register
index 0x08 then reads t1h ‖ t0h; the word holds t1h in its upper half (R102). -/
def Obligations.SetovrStoresOverride : Prop :=
  (∀ (t0h t1h : Tick) (s : State), ∃ t, exec (.setovr t0h t1h) s = .next t ∧
    Quiet s t { s.block with ovrT0h := t0h, ovrT1h := t1h } .ok 0 ∧
    t.block.regRead 0x08 = some (tpkWord t0h t1h)) ∧
  (∀ w : CommandWord, opField w = 0x04 →
    decode w = .ok (.setovr ((argField w).extractLsb' 0 16) ((argField w).extractLsb' 16 16))) ∧
  decode 0x040078003C = .ok (.setovr 60 120) ∧ tpkWord 60 120 = 0x0078003C

/-- The count `ticks(H, clock_hz, divider)` is the nearest integer to H x clock_hz / (2 000 000 000 x divider), within
half a tick either way, and the upper of two equally near ones (R92, R107). -/
def Obligations.TickCountIsNearest : Prop :=
  ∀ h hz d : Nat, 0 < d →
    tickCount h hz d * (2000000000 * d) ≤ h * hz + 1000000000 * d ∧
    h * hz < tickCount h hz d * (2000000000 * d) + 1000000000 * d

/-- On the clock path the counts are those of R92 with nothing wrapped: `0 <= t0h <= t1h <= 21475`, and the bound is
reached; they can be 0 and can be equal, and `t1h = 2 x t0h` does not hold in general (R94). -/
def Obligations.ClockTicksInRange : Prop :=
  (∀ (p : SpeedProfile) (hz : ClockHz) (d : ClockDiv), hz ≠ 0 → d ≠ 0 →
    (fromClock p hz d).t0h.toNat = tickCount (zeroHighHalfNs p) hz.toNat d.toNat ∧
    (fromClock p hz d).t1h.toNat = tickCount (oneHighHalfNs p) hz.toNat d.toNat ∧
    (fromClock p hz d).t0h.toNat ≤ (fromClock p hz d).t1h.toNat ∧ (fromClock p hz d).t1h.toNat ≤ 21475) ∧
  (fromClock .dshot150 4294967295 1).t1h = 21475 ∧
  (fromClock .dshot1200 1599999 1).t0h = 0 ∧
  (fromClock .dshot600 1000000 1).t0h = 1 ∧ (fromClock .dshot600 1000000 1).t1h = 1 ∧
  (fromClock .dshot1200 72000000 1).t0h = 23 ∧ (fromClock .dshot1200 72000000 1).t1h = 45

/-- A count of the clock path is zero exactly when H x CLKHZ / (2 000 000 000 x CLKDIV) < 1/2, and for T0H that is
CLKHZ / CLKDIV < 200 000, 400 000, 800 000, 1 600 000 by profile, for a clock and divider that are not zero (R190). -/
def Obligations.ZeroCountThreshold : Prop :=
  (∀ h hz d : Nat, 0 < d → (tickCount h hz d = 0 ↔ h * hz < 1000000000 * d)) ∧
  (∀ (p : SpeedProfile) (hz : ClockHz) (d : ClockDiv), hz ≠ 0 → d ≠ 0 →
    ((fromClock p hz d).t0h = 0 ↔
      hz.toNat < (match p with
        | .dshot150 => 200000 | .dshot300 => 400000 | .dshot600 => 800000 | .dshot1200 => 1600000) * d.toNat))

/-- At the reference clock and divider CAL and LUT answer alike, for every profile: the default table is what the clock
gives there (R96). -/
def Obligations.ReferenceClockGivesDefaultTable : Prop :=
  ∀ (p : SpeedProfile) (s : State), s.block.clkhz = 80000000 → s.block.clkdiv = 1 →
    fromClock p 80000000 1 = defaultTicks p ∧ exec (.cal p) s = exec (.lut p) s

/-- CAL completes in every state with CLKHZ and CLKDIV not zero, configured or not: its data is t1h ‖ t0h of R92, and it
writes no state; a word of its opcode with a bit of arg[31:2] set is answered with ILLOP; with the worked example (R104). -/
def Obligations.CalAnswersClockTicks : Prop :=
  (∀ (p : SpeedProfile) (s : State), s.block.clkhz ≠ 0 → s.block.clkdiv ≠ 0 → ∃ t d, exec (.cal p) s = .next t ∧
    Quiet s t s.block .ok d ∧
    d.toNat = tickCount (oneHighHalfNs p) s.block.clkhz.toNat s.block.clkdiv.toNat * 65536 +
      tickCount (zeroHighHalfNs p) s.block.clkhz.toNat s.block.clkdiv.toNat) ∧
  (∀ (w : CommandWord) (s : State), opField w = 0x06 → (argField w).extractLsb' 2 30 ≠ 0 → AnswersIllop s w) ∧
  decode 0x0600000003 = .ok (.cal .dshot1200) ∧
  tickCount (zeroHighHalfNs .dshot1200) 40000000 1 = 13 ∧ tickCount (oneHighHalfNs .dshot1200) 40000000 1 = 25

/-- CAL, and INIT on the clock path of an unconfigured block, have no meaning when CLKHZ or CLKDIV is zero: the step is
refused; that it is refused, and under these names, is the model's reading of R93 (log entry 5). -/
def Obligations.ZeroClockRefused : Prop :=
  ∀ (p : SpeedProfile) (s : State),
    (s.block.clkhz = 0 → exec (.cal p) s = .refused .clockHzZero ∧
      (s.block.configured = false → exec (.init p false true) s = .refused .clockHzZero)) ∧
    (s.block.clkhz ≠ 0 → s.block.clkdiv = 0 → exec (.cal p) s = .refused .clockDivZero ∧
      (s.block.configured = false → exec (.init p false true) s = .refused .clockDivZero))

/-- LUT completes in every state: its data is the profile's TPK word of the default table, and it writes no state; a word
of its opcode with a bit of arg[31:2] set is answered with ILLOP (R105). -/
def Obligations.LutAnswersDefaultTable : Prop :=
  (∀ (p : SpeedProfile) (s : State), ∃ t, exec (.lut p) s = .next t ∧ Quiet s t s.block .ok
    (match p with
      | .dshot150 => 0x019000C8 | .dshot300 => 0x00C80064 | .dshot600 => 0x00640032 | .dshot1200 => 0x00320019)) ∧
  (∀ (w : CommandWord) (s : State), opField w = 0x07 → (argField w).extractLsb' 2 30 ≠ 0 → AnswersIllop s w) ∧
  decode 0x0700000002 = .ok (.lut .dshot600)

/-- BITPER completes in every state: its data is the bit period in ns, and it writes no state; a word of its opcode with a
bit of arg[31:2] set is answered with ILLOP (R106). -/
def Obligations.BitperAnswersBitPeriod : Prop :=
  (∀ (p : SpeedProfile) (s : State), ∃ t, exec (.bitper p) s = .next t ∧ Quiet s t s.block .ok
    (match p with | .dshot150 => 6667 | .dshot300 => 3333 | .dshot600 => 1667 | .dshot1200 => 833)) ∧
  (∀ (w : CommandWord) (s : State), opField w = 0x08 → (argField w).extractLsb' 2 30 ≠ 0 → AnswersIllop s w) ∧
  decode 0x0800000000 = .ok (.bitper .dshot150)

/-- INIT on an unconfigured block completes, but for the clock path with a zero clock or divider: the timing source is the
override if it is supplied, whatever the clock flag, else the clock, else the default table; the low counts are
cross-wired; PROFILE, SRC and CONFIGURED are set; the data is t1h ‖ t0h as written (R98, R103). -/
def Obligations.InitResolvesTiming : Prop :=
  ∀ (p : SpeedProfile) (o c : Bool) (s : State), s.block.configured = false →
    (o = true ∨ c = false ∨ (s.block.clkhz ≠ 0 ∧ s.block.clkdiv ≠ 0)) →
    ∃ t h0 h1 src, exec (.init p o c) s = .next t ∧
      Quiet s t { s.block with configured := true, profile := p, src := src, ticks := ⟨h0, h1, h1, h0⟩ } .ok (h1 ++ h0) ∧
      (h0, h1, src) =
        (if o then (s.block.ovrT0h, s.block.ovrT1h, TimingSource.explicit)
         else if c then ((fromClock p s.block.clkhz s.block.clkdiv).t0h, (fromClock p s.block.clkhz s.block.clkdiv).t1h,
           TimingSource.clock)
         else ((defaultTicks p).t0h, (defaultTicks p).t1h, TimingSource.table))

/-- INIT succeeds once after each reset: on a configured block every INIT is refused with ILLSTATE and changes nothing, and
no command but RST changes CONFIGURED, PROFILE, SRC or the tick counts of a configured block (R14, R99). -/
def Obligations.InitOnlyOnce : Prop :=
  (∀ (p : SpeedProfile) (o c : Bool) (s : State), s.block.configured = true →
    ∃ t, exec (.init p o c) s = .next t ∧ Quiet s t s.block .illstate 0) ∧
  (∀ (i : Instr) (s t : State), i ≠ .rst → s.block.configured = true → exec i s = .next t →
    t.block.configured = true ∧ t.block.profile = s.block.profile ∧ t.block.ticks = s.block.ticks ∧
      t.block.src = s.block.src)

/-! The pulse-train sequencer. -/

/-- BUILD on a configured block completes for every frame word, valid checksum or not: entry i of PT is the pair selected
by frame bit 15 - i, entry 16 is the terminator, PTVALID is set, nothing else is written (R112 to R116, R119). -/
def Obligations.BuildWritesTrain : Prop :=
  ∀ (f : Frame) (s : State), s.block.configured = true → ∃ t pt, exec (.build f) s = .next t ∧
    Quiet s t { s.block with pt := pt, ptvalid := true } .ok 0 ∧
    (∀ i : Fin 16, pt[i.val] =
      if f.getLsbD (15 - i.val) then ⟨s.block.ticks.t1h, s.block.ticks.t1l⟩
      else ⟨s.block.ticks.t0h, s.block.ticks.t0l⟩) ∧
    pt[16] = ⟨0, 0⟩

/-- SEND with a train and its answer at hand (log entry 3) completes: the 17 words go out in index order, the response is
OK on `done` and TXFAIL on `fail`, and PT and every register stay as they were (R43, R120, R126, R127). -/
def Obligations.SendTransmitsTrain : Prop :=
  ∀ (s : State) (a : TxAnswer), s.block.ptvalid = true → s.nextAnswer = some a → ∃ t, exec .send s = .next t ∧
    Sent s t s.block a (match a with | .done => .ok | .fail => .txfail) 0

/-- SEND with a train whose answer has not come emits the 17 words and waits: BUSY = 1, no response (R120, R124); how the
model keeps the command in flight is its own choice (log entries 3 and 4). -/
def Obligations.SendWaitsForAnswer : Prop :=
  ∀ s : State, s.block.ptvalid = true → s.nextAnswer = none → ∃ t, exec .send s = .next t ∧
    SentWaiting s t s.block 0

/-- WRITE on a configured block with its answer at hand completes: FRAME, PT and PTVALID are written, the 17 words of the
new train go out in index order, the response is OK with the frame on `done` and TXFAIL with 0 on `fail`, and the
registers hold what was computed either way (R125, R171). -/
def Obligations.WriteTransmitsFrame : Prop :=
  ∀ (v : ThrottleOperand) (b : Bool) (s : State) (a : TxAnswer), s.block.configured = true → s.nextAnswer = some a →
    ∃ t, exec (.write v b) s = .next t ∧
      Sent s t { s.block with frame := createFrame v b, pt := buildTrain (createFrame v b) s.block.ticks, ptvalid := true } a
        (match a with | .done => .ok | .fail => .txfail)
        (match a with | .done => (createFrame v b).setWidth 32 | .fail => 0)

/-- WRITE on a configured block whose answer has not come: FRAME, PT and PTVALID are written, the 17 words go out, the
command waits with BUSY = 1 and no response (R124, R125); how the model keeps it in flight is its own choice (log entries 3
and 4). -/
def Obligations.WriteWaitsForAnswer : Prop :=
  ∀ (v : ThrottleOperand) (b : Bool) (s : State), s.block.configured = true → s.nextAnswer = none →
    ∃ t, exec (.write v b) s = .next t ∧
      SentWaiting s t
        { s.block with frame := createFrame v b, pt := buildTrain (createFrame v b) s.block.ticks, ptvalid := true }
        ((createFrame v b).setWidth 32)

/-- WRITE has the effect of ENCODE, BUILD of the frame and SEND in that order: the same block, the same words emitted and
the same answer taken (R125). -/
def Obligations.WriteIsEncodeBuildSend : Prop :=
  ∀ (v : ThrottleOperand) (b : Bool) (s : State) (a : TxAnswer), s.block.configured = true → s.nextAnswer = some a →
    ∃ t s1 s2 s3, exec (.write v b) s = .next t ∧
      exec (.encode v b) s = .next s1 ∧ exec (.build (createFrame v b)) s1 = .next s2 ∧ exec .send s2 = .next s3 ∧
      t.block = s3.block ∧ t.cur.trains = s3.cur.trains ∧
      t.trace.filter (fun e => match e with | .responded _ _ => false | _ => true) =
        s3.trace.filter (fun e => match e with | .responded _ _ => false | _ => true)

/-- Every data entry of a cross-wired train lasts T0H + T1H ticks, so the train lasts 16 x (T0H + T1H) ticks whatever the
frame; 9600, 4800, 2400, 1200 ticks for the default table (R118). -/
def Obligations.TrainDurationIndependentOfFrame : Prop :=
  (∀ (f : Frame) (t0h t1h : Tick) (i : Fin 16),
    ((buildTrain f (crossWire t0h t1h))[i.val]).duration = t0h.toNat + t1h.toNat) ∧
  (∀ (f : Frame) (t0h t1h : Tick), trainDuration (buildTrain f (crossWire t0h t1h)) = 16 * (t0h.toNat + t1h.toNat)) ∧
  (∀ (f : Frame) (p : SpeedProfile), trainDuration (buildTrain f (defaultTicks p)) =
    match p with | .dshot150 => 9600 | .dshot300 => 4800 | .dshot600 => 2400 | .dshot1200 => 1200)

/-- The bit order of the wire: two frames give the same train only if they are the same frame, provided the zero-bit and
one-bit pairs differ; if the pairs are equal every frame gives the same train (R112, R116, R191). -/
def Obligations.TrainCarriesFrame : Prop :=
  (∀ (f g : Frame) (t0h t1h : Tick), t0h ≠ t1h →
    buildTrain f (crossWire t0h t1h) = buildTrain g (crossWire t0h t1h) → f = g) ∧
  (∀ (f g : Frame) (h : Tick), buildTrain f (crossWire h h) = buildTrain g (crossWire h h))

/-! System commands. -/

/-- NOP completes in every state with (OK, 0) and writes nothing; a word of its opcode with an argument is answered with
ILLOP (R136). -/
def Obligations.NopAnswersOk : Prop :=
  (∀ s : State, ∃ t, exec .nop s = .next t ∧ Quiet s t s.block .ok 0) ∧
  (∀ (w : CommandWord) (s : State), opField w = 0x00 → argField w ≠ 0 → AnswersIllop s w) ∧
  decode 0x0000000000 = .ok .nop ∧ Response.word ⟨.ok, 0⟩ = 0x000000000

/-- RST completes in every state: every element of the block takes its reset value, as by the reset input, STATUS reads 0,
and the collaborator, the other channels and the driver's DSTATE are not touched; a word of its opcode with an argument is
answered with ILLOP (R31, R137, R186; that no command is in flight then is the model's field, log entry 4). -/
def Obligations.RstResetsBlock : Prop :=
  (∀ s : State, ∃ t, exec .rst s = .next t ∧
    Quiet s t
      { configured := false, profile := .dshot150, src := .unset, ticks := ⟨0, 0, 0, 0⟩, clkhz := 80000000, clkdiv := 1,
        ovrT0h := 0, ovrT1h := 0, frame := 0, pt := Vector.replicate 17 ⟨0, 0⟩, ptvalid := false, pos := 0, busy := false,
        inFlight := none } .ok 0 ∧
    t.block = ((s.hardwareReset s.sel).chan s.sel).block ∧ t.block.statusWord = 0) ∧
  (∀ (w : CommandWord) (s : State), opField w = 0x01 → argField w ≠ 0 → AnswersIllop s w) ∧
  decode 0x0100000000 = .ok .rst

/-- RD of a mapped index completes in every state with the view of the register map, and writes nothing: the nine
registers and the 17 entries of PT (R41, R42, R44, R138). -/
def Obligations.RdReadsRegisterMap : Prop :=
  ∀ s : State,
    (∀ (r : RegIndex) (d : DataWord),
      (r, d) ∈ [(0x00, s.block.statusWord), (0x01, s.block.frame.setWidth 32), (0x02, s.block.ticks.t0h.setWidth 32),
        (0x03, s.block.ticks.t0l.setWidth 32), (0x04, s.block.ticks.t1h.setWidth 32),
        (0x05, s.block.ticks.t1l.setWidth 32), (0x06, s.block.clkhz), (0x07, s.block.clkdiv.setWidth 32),
        ((0x08 : RegIndex), s.block.ovrT1h ++ s.block.ovrT0h)] →
      ∃ t, exec (.rd r) s = .next t ∧ Quiet s t s.block .ok d) ∧
    (∀ i : Fin 17, ∃ t, exec (.rd (BitVec.ofNat 8 (0x10 + i.val))) s = .next t ∧
      Quiet s t s.block .ok (s.block.pt[i.val].high ++ s.block.pt[i.val].low))

/-- ILLREG is raised by RD for exactly the unmapped indices, 0x09..0x0F and 0x21..0xFF, and then nothing changes; RD of any
other index is OK (R168, R172). -/
def Obligations.IllregExactlyUnmapped : Prop :=
  ∀ (r : RegIndex) (s : State), ∃ t st d, exec (.rd r) s = .next t ∧ Quiet s t s.block st d ∧
    (st = .illreg ↔ (0x09 ≤ r.toNat ∧ r.toNat ≤ 0x0F) ∨ (0x21 ≤ r.toNat ∧ r.toNat ≤ 0xFF)) ∧
    (st = .illreg ∧ d = 0 ∨ st = .ok)

/-! Statuses and frames of all commands. -/

/-- ILLSTATE is the status of exactly four cases: INIT when configured, BUILD or WRITE when not, SEND without a train; the
data is 0, nothing is written and nothing is emitted (R169, R172). -/
def Obligations.IllstateExactlyFourCases : Prop :=
  ∀ (i : Instr) (s : State),
    ((match i with
      | .init _ _ _ => s.block.configured = true
      | .build _ => s.block.configured = false
      | .write _ _ => s.block.configured = false
      | .send => s.block.ptvalid = false
      | _ => False) → ∃ t, exec i s = .next t ∧ Quiet s t s.block .illstate 0) ∧
    (∀ t d, exec i s = .next t → t.cur.response = some ⟨.illstate, d⟩ →
      match i with
      | .init _ _ _ => s.block.configured = true
      | .build _ => s.block.configured = false
      | .write _ _ => s.block.configured = false
      | .send => s.block.ptvalid = false
      | _ => False)

/-- TXFAIL is the status of SEND and WRITE only, exactly when the answer to the train just emitted is `fail` (R170). -/
def Obligations.TxfailExactlyOnFail : Prop :=
  ∀ (i : Instr) (s t : State), exec i s = .next t →
    ((∃ d, t.cur.response = some ⟨.txfail, d⟩) ↔
      t.cur.trains = s.cur.trains + 1 ∧ s.nextAnswer = some .fail) ∧
    (t.cur.trains = s.cur.trains + 1 → i = .send ∨ ∃ v b, i = .write v b)

/-- Whatever the command, a status other than OK carries data 0, and ILLREG and ILLSTATE leave every state element as it
was and emit nothing; ILLOP is the status of no decoded command (R60, R166, R172). -/
def Obligations.RefusalsChangeNothing : Prop :=
  ∀ (i : Instr) (s t : State) (r : Response), exec i s = .next t → t.cur.response = some r →
    (r.status ≠ .ok → r.data = 0) ∧ r.status ≠ .illop ∧
    (r.status = .illreg ∨ r.status = .illstate → Quiet s t s.block r.status 0)

/-- Each command that has a next state appends exactly one response to what is observed, as its last event, or waits with
none, which only SEND and WRITE do (R47). -/
def Obligations.OneResponsePerCommand : Prop :=
  ∀ (i : Instr) (s t : State), exec i s = .next t →
    (∃ es r, t.trace = s.trace ++ es ++ [.responded s.sel r] ∧ t.cur.response = some r ∧ t.block.busy = false ∧
      ∀ e ∈ es, ∀ k q, e ≠ .responded k q) ∨
    (∃ es, t.trace = s.trace ++ es ∧ t.cur.response = none ∧ t.block.busy = true ∧ (∀ e ∈ es, ∀ k q, e ≠ .responded k q) ∧
      (i = .send ∨ ∃ v b, i = .write v b))

/-- The access matrix: each element is written by the commands of its row and by RST, and by no other (R32). -/
def Obligations.AccessMatrix : Prop :=
  ∀ (i : Instr) (s t : State), exec i s = .next t → i ≠ .rst →
    ((∀ p o c, i ≠ .init p o c) → t.block.configured = s.block.configured ∧ t.block.profile = s.block.profile ∧
      t.block.src = s.block.src ∧ t.block.ticks = s.block.ticks) ∧
    ((∀ hz, i ≠ .setclk hz) → t.block.clkhz = s.block.clkhz) ∧
    ((∀ d, i ≠ .setdiv d) → t.block.clkdiv = s.block.clkdiv) ∧
    ((∀ t0h t1h, i ≠ .setovr t0h t1h) → t.block.ovrT0h = s.block.ovrT0h ∧ t.block.ovrT1h = s.block.ovrT1h) ∧
    ((∀ v b, i ≠ .encode v b) → (∀ v b, i ≠ .write v b) → t.block.frame = s.block.frame) ∧
    ((∀ f, i ≠ .build f) → (∀ v b, i ≠ .write v b) → t.block.pt = s.block.pt ∧ t.block.ptvalid = s.block.ptvalid) ∧
    (i ≠ .send → (∀ v b, i ≠ .write v b) → t.block.pos = s.block.pos)

/-- No command of one block writes another channel, the host's side, the collaborator's answers or the driver's DSTATE, and
none reads another channel or the host's side: two states with the same executing channel give the same channel after and
the same events on their own channel, or the same refusal (R29, R33). -/
def Obligations.CommandsConcernOnlyTheirChannel : Prop :=
  (∀ (i : Instr) (s t : State), exec i s = .next t → Elsewhere s t) ∧
  (∀ (i : Instr) (s s' : State), s.cur = s'.cur →
    match exec i s, exec i s' with
    | .next t, .next t' => t.cur = t'.cur ∧ ∃ es : List Event,
        t.trace = s.trace ++ es.map (Event.onChannel s.sel) ∧ t'.trace = s'.trace ++ es.map (Event.onChannel s'.sel)
    | .refused r, .refused r' => r = r'
    | _, _ => False)

/-! The machine around the commands. -/

/-- Reset leaves every block with the values of the reset table, not configured, with no train, idle, and with STATUS
reading 0 (R187, with the values of R31). -/
def Obligations.ResetState : Prop :=
  ∀ k : ChannelId, let b := (State.reset.chan k).block
    b.configured = false ∧ b.profile = .dshot150 ∧ b.src = .unset ∧ b.ticks = ⟨0, 0, 0, 0⟩ ∧ b.clkhz = 80000000 ∧
    b.clkdiv = 1 ∧ b.ovrT0h = 0 ∧ b.ovrT1h = 0 ∧ b.frame = 0 ∧ (∀ i : Fin 17, b.pt[i.val] = ⟨0, 0⟩) ∧ b.ptvalid = false ∧
    b.pos = 0 ∧ b.busy = false ∧ b.statusWord = 0

/-- A step runs the decoded command: when the host is free and its next action is to give channel `k`, which is idle, a word
that decodes to `i`, the step is `exec i` on the state after acceptance: `k` selected, BUSY = 1, the response port empty,
the action taken from the inputs (R46, R47, R69). Around it the driver notes DSTATE of `k`: Unarmed as it gives RST (R137),
Unspecified on TXFAIL (R171). That the host's actions stand in a list of inputs, and when DSTATE is noted, is the model's
choice (log entries 2 and 20). -/
def Obligations.StepRunsDecodedCommand : Prop :=
  ∀ (s : State) (k : ChannelId) (w : CommandWord) (i : Instr) (rest : List Input), s.Ready →
    (s.chan k).block.busy = false → s.inputs = .host (.command k w) :: rest → decode w = .ok i →
    ∃ u : State, u.sel = k ∧
      u.cur = { s.chan k with
        block := { (s.chan k).block with busy := true }
        response := none
        dstate := if i = .rst then .unarmed else (s.chan k).dstate } ∧
      (∀ j, j ≠ k → u.chan j = s.chan j) ∧ u.inputs = rest ∧ u.seq = none ∧ u.trace = s.trace ∧
      match exec i u with
      | .next t =>
        (t.cur.response ≠ some ⟨.txfail, 0⟩ → step s = .next t) ∧
        (t.cur.response = some ⟨.txfail, 0⟩ → step s = .next (t.setDState k .unspecified))
      | .refused r => step s = .refused r
      | .fault _ => False

/-- An illegal word is accepted, changes no element of an idle block, emits nothing and is answered with ILLOP and data 0
(R59, R167, R172). -/
def Obligations.IllegalWordAnswersIllop : Prop :=
  ∀ (s : State) (k : ChannelId) (w : CommandWord) (rest : List Input), s.Ready →
    (s.chan k).block.busy = false → (s.chan k).block.inFlight = none →
    s.inputs = .host (.command k w) :: rest → wellFormedWord w = false →
    ∃ t, step s = .next t ∧ (t.chan k).block = (s.chan k).block ∧ (t.chan k).response = some ⟨.illop, 0⟩ ∧
      t.trace = s.trace ++ [.responded k ⟨.illop, 0⟩] ∧ t.inputs = rest ∧ ∀ j, j ≠ k → t.chan j = s.chan j

/-- While a block is executing the host's own actions are held, neither lost nor done early: a step leaves them as they
were, in order; and a waiting block with no answer and no event to come stays as it is, without bound (R46, R48, R124; the
list of inputs, and waiting as a step that changes nothing, are the model's choice, log entries 2, 4 and 9). -/
def Obligations.WaitingBlockHoldsHost : Prop :=
  (∀ s t : State, s.block.busy = true → step s = .next t →
    t.inputs.filter (fun x => match x with | .host _ => true | .env _ => false) =
      s.inputs.filter (fun x => match x with | .host _ => true | .env _ => false)) ∧
  (∀ (n : Nat) (s : State), s.block.busy = true → s.cur.answer? = none → (∀ e, .env e ∉ s.inputs) →
    Sys2Proof.core.run n s = .next s)

/-- `WAIT_MS` is one event in the order of the host's actions and changes no channel, given by the host itself or by a
driver sequence (R147; the list of inputs is the model's choice, log entry 2). -/
def Obligations.WaitMsIsOneEvent : Prop :=
  (∀ (s : State) (ms : Nat) (rest : List Input), s.Ready → s.inputs = .host (.waitMs ms) :: rest →
    step s = .next { s with inputs := rest, trace := s.trace ++ [.waited ms] }) ∧
  (∀ (s : State) (op : DriverOp) (ms : Nat) (todo : List HostItem), s.block.busy = false →
    s.seq = some ⟨op, .waitMs ms :: todo⟩ →
    step s = .next { s with seq := some ⟨op, todo⟩, trace := s.trace ++ [.waited ms] })

/-- When the answer to the train in flight is there, the waiting command ends as it would have ended with the answer at
hand: OK with its data on `done`, TXFAIL with 0 on `fail`, BUSY = 0. On `done` a driver sequence it belongs to goes on; on
`fail` the channel's DSTATE is Unspecified and a driver sequence ends there with TransmitFailure (R120, R122, R125, R150,
R152, R170, R171, R176; the command in flight is kept in the model's own field, log entries 3, 4 and 20). -/
def Obligations.AnswerEndsWaitingCommand : Prop :=
  ∀ (s : State) (a : TxAnswer) (d : DataWord), s.block.busy = true → s.block.inFlight = some d →
    s.cur.answer? = some a → ∃ t, step s = .next t ∧ t.block = s.block.idle ∧ t.cur.trains = s.cur.trains ∧
      t.cur.answers = s.cur.answers ∧ t.sel = s.sel ∧ t.inputs = s.inputs ∧ (∀ k, k ≠ s.sel → t.chan k = s.chan k) ∧
      match a with
      | .done => t.cur.response = some ⟨.ok, d⟩ ∧ t.seq = s.seq ∧ t.cur.dstate = s.cur.dstate ∧
          t.trace = s.trace ++ [.answered s.sel .done, .responded s.sel ⟨.ok, d⟩]
      | .fail => t.cur.response = some ⟨.txfail, 0⟩ ∧ t.seq = none ∧ t.cur.dstate = .unspecified ∧
          t.trace = s.trace ++ [.answered s.sel .fail, .responded s.sel ⟨.txfail, 0⟩] ++
            (match s.seq with | none => [] | some q => [.returned q.op .transmitFailure])

/-- A hardware reset puts the block in the reset state at once with no response. An idle block: nothing else changes. A
waiting block: an answer to the train of the interrupted command that comes after is not taken for the next train's, and a
driver sequence goes on waiting for the lost response: it never goes on, returns nothing and the host's actions stay held
(R146, R157, R186, R188; by numbering the trains and by an action of its own in the sequence, log entries 7 and 18). -/
def Obligations.HardwareResetResetsBlock : Prop :=
  (∀ (s : State) (k : ChannelId) (rest : List Input), s.Ready → s.inputs = .env (.hardwareReset k) :: rest →
    ∃ t, step s = .next t ∧ t.chan k = { s.chan k with block := Block.reset, response := none } ∧
      (∀ j, j ≠ k → t.chan j = s.chan j) ∧ t.inputs = rest ∧ t.sel = s.sel ∧ t.seq = none ∧ t.trace = s.trace) ∧
  (∀ (s : State) (rest : List Input), s.block.busy = true → s.cur.answer? = none →
    s.inputs = .env (.hardwareReset s.sel) :: rest →
    ∃ t, step s = .next t ∧ t.block = Block.reset ∧ t.cur.response = none ∧ t.trace = s.trace ∧ t.inputs = rest ∧
      t.sel = s.sel ∧ (∀ k, k ≠ s.sel → t.chan k = s.chan k) ∧ t.cur.trains = s.cur.trains ∧
      t.cur.dstate = s.cur.dstate ∧
      t.seq = s.seq.map (fun q => ⟨q.op, .lostResponse :: q.todo⟩) ∧
      ∀ a, (t.applyEnv (.answer s.sel s.cur.trains a)).nextAnswer = t.nextAnswer) ∧
  (∀ (s : State) (q : Sequence) (todo : List HostItem), s.block.busy = false → s.seq = some q →
    q.todo = .lostResponse :: todo →
    ∃ t, step s = .next t ∧ t.block.busy = false ∧ t.seq = some q ∧ t.trace = s.trace ∧ t.sel = s.sel ∧
      t.inputs.filter (fun x => match x with | .host _ => true | .env _ => false) =
        s.inputs.filter (fun x => match x with | .host _ => true | .env _ => false))

/-- The reset state is sound: the invariant of StepKeepsSound holds in it. -/
def Obligations.ResetIsSound : Prop := State.reset.Inv

/-- Every step keeps a sound machine sound: on every block the tick counts stay cross-wired while configured, SRC tells
whether it is configured, computed counts stay in range, PT holds a train of some frame under the block's own table, FRAME
holds a created frame, POS is 0, BUSY is 1 exactly while a command is in flight, and only the channel the host waits for
is busy (R14, R16, R18, R22, R24, R27, R28, R94; the command in flight is the model's field, log entry 4). -/
def Obligations.StepKeepsSound : Prop :=
  ∀ s t : State, s.Inv → step s = .next t → t.Inv

/-- Whenever CONFIGURED = 1, T0L = T1H and T1L = T0H: every step keeps it on every block, and reset has it (R18). -/
def Obligations.CrossWiringKept : Prop :=
  (∀ k, (State.reset.chan k).block.configured = true →
    (State.reset.chan k).block.ticks.t0l = (State.reset.chan k).block.ticks.t1h ∧
    (State.reset.chan k).block.ticks.t1l = (State.reset.chan k).block.ticks.t0h) ∧
  ∀ s t : State, (∀ k, (s.chan k).block.configured = true →
      (s.chan k).block.ticks.t0l = (s.chan k).block.ticks.t1h ∧ (s.chan k).block.ticks.t1l = (s.chan k).block.ticks.t0h) →
    step s = .next t → ∀ k, (t.chan k).block.configured = true →
      (t.chan k).block.ticks.t0l = (t.chan k).block.ticks.t1h ∧ (t.chan k).block.ticks.t1l = (t.chan k).block.ticks.t0h

/-! Driver sequences. -/

/-- CONSTRUCT from a free host: its actions are RST, the supplied sources, INIT, each answered OK, INIT with its TPK word;
then the channel's block is the reset block but for the sources stored and for what INIT wrote, configured from the source
the resolution order gives, with FRAME 0 and no train; DSTATE is Unarmed and the result is Ok; only the clock path needs a
clock and divider that are not zero (R98, R148, R152; that the actions are a list is the model's, log entries 2 and 12). -/
def Obligations.ConstructConfiguresChannel : Prop :=
  ∀ (s : State) (k : ChannelId) (p : SpeedProfile) (ovr : Option (Tick × Tick)) (clk : Option (ClockHz × ClockDiv))
    (rest : List Input), s.Ready → (s.chan k).block.busy = false →
    s.inputs = .host (.call (.construct k p ovr clk)) :: rest →
    (ovr = none → ∀ hz d, clk = some (hz, d) → hz ≠ 0 ∧ d ≠ 0) →
    let ticks := match ovr, clk with
      | some (t0h, t1h), _ => crossWire t0h t1h
      | none, some (hz, d) => fromClock p hz d
      | none, none => defaultTicks p
    let src := match ovr, clk with
      | some _, _ => TimingSource.explicit
      | none, some _ => TimingSource.clock
      | none, none => TimingSource.table
    planOf (.construct k p ovr clk) = [.issue k .rst] ++
      (match ovr with | some (t0h, t1h) => [.issue k (.setovr t0h t1h)] | none => []) ++
      (match clk with | some (hz, d) => [.issue k (.setclk hz), .issue k (.setdiv d)] | none => []) ++
      [.issue k (.init p ovr.isSome clk.isSome)] ∧
    ∃ (n : Nat) (t : State), Sys2Proof.core.run n s = .next t ∧ t.Ready ∧ t.inputs = rest ∧ (t.chan k).dstate = .unarmed ∧
      (t.chan k).block =
        { configured := true, profile := p, src := src, ticks := ticks, clkhz := (clk.map Prod.fst).getD 80000000,
          clkdiv := (clk.map Prod.snd).getD 1, ovrT0h := (ovr.map Prod.fst).getD 0, ovrT1h := (ovr.map Prod.snd).getD 0,
          frame := 0, pt := Vector.replicate 17 ⟨0, 0⟩, ptvalid := false, pos := 0, busy := false, inFlight := none } ∧
      t.trace = s.trace ++ [.responded k ⟨.ok, 0⟩] ++
        (match ovr with | some _ => [.responded k ⟨.ok, 0⟩] | none => []) ++
        (match clk with | some _ => [.responded k ⟨.ok, 0⟩, .responded k ⟨.ok, 0⟩] | none => []) ++
        [.responded k ⟨.ok, ticks.t1h ++ ticks.t0h⟩, .returned (.construct k p ovr clk) .ok] ∧
      (t.chan k).trains = (s.chan k).trains ∧ (t.chan k).answers = (s.chan k).answers ∧ ∀ j, j ≠ k → t.chan j = s.chan j

/-- WRITE_THROTTLE from a free host on a configured channel with its answer at hand: one WRITE and no other; on `done` the
result is Ok and DSTATE is as it was, on `fail` the result is TransmitFailure and DSTATE is Unspecified (R149, R152, R156;
the number of steps is the model's, log entry 12). -/
def Obligations.WriteThrottleWritesOnce : Prop :=
  ∀ (s : State) (k : ChannelId) (v : ThrottleOperand) (b : Bool) (a : TxAnswer) (rest : List Input), s.Ready →
    (s.chan k).block.busy = false → (s.chan k).block.configured = true →
    s.inputs = .host (.call (.writeThrottle k v b)) :: rest →
    (s.chan k).answers.lookup ((s.chan k).trains + 1) = some a →
    ∃ t : State, Sys2Proof.core.run (match a with | .done => 3 | .fail => 2) s = .next t ∧ t.Ready ∧ t.inputs = rest ∧
      (t.chan k).trains = (s.chan k).trains + 1 ∧ (t.chan k).block.frame = createFrame v b ∧
      (t.chan k).dstate = (match a with | .done => (s.chan k).dstate | .fail => .unspecified) ∧
      t.trace = s.trace ++ trainEvents k (buildTrain (createFrame v b) (s.chan k).block.ticks) ++
        (match a with
          | .done => [.answered k .done, .responded k ⟨.ok, (createFrame v b).setWidth 32⟩,
              .returned (.writeThrottle k v b) .ok]
          | .fail => [.answered k .fail, .responded k ⟨.txfail, 0⟩, .returned (.writeThrottle k v b) .transmitFailure]) ∧
      ∀ j, j ≠ k → t.chan j = s.chan j

/-- ARM from a free host on a configured channel with the answers `done` to its next 100 trains at hand: after 202 steps
100 trains have been handed over, 100 waits of 20 ms made, DSTATE is Armed and the result is Ok (R150, R152; one step for
each action of the driver is the model's choice, log entry 12). -/
def Obligations.ArmSendsHundredFrames : Prop :=
  ∀ (s : State) (k : ChannelId) (rest : List Input), s.Ready → (s.chan k).block.busy = false →
    (s.chan k).block.configured = true → s.inputs = .host (.call (.arm k)) :: rest →
    (∀ n, n < 100 → (s.chan k).answers.lookup ((s.chan k).trains + 1 + n) = some .done) →
    ∃ (t : State) (es : List Event), Sys2Proof.core.run 202 s = .next t ∧ t.Ready ∧ t.inputs = rest ∧
      (t.chan k).dstate = .armed ∧
      (t.chan k).trains = (s.chan k).trains + 100 ∧ (t.chan k).block.frame = 0 ∧
      t.trace = s.trace ++ es ++ [.returned (.arm k) .ok] ∧
      es = (List.replicate 100
        (trainEvents k (buildTrain 0 (s.chan k).block.ticks) ++ [.answered k .done, .responded k ⟨.ok, 0⟩, .waited 20])).flatten ∧
      ∀ j, j ≠ k → t.chan j = s.chan j

/-- ARM stops at the first failure: with the answers `done` to `n` trains and `fail` to the next at hand, it issues exactly
n + 1 WRITEs and n waits, issues no wait after the failed frame and no further frame, sets DSTATE Unspecified and returns
TransmitFailure (R150, R152, R156; the number of steps is the model's, log entry 12). -/
def Obligations.ArmStopsAtFirstFailure : Prop :=
  ∀ (s : State) (k : ChannelId) (rest : List Input) (n : Nat), n < 100 → s.Ready → (s.chan k).block.busy = false →
    (s.chan k).block.configured = true → s.inputs = .host (.call (.arm k)) :: rest →
    (∀ m, m < n → (s.chan k).answers.lookup ((s.chan k).trains + 1 + m) = some .done) →
    (s.chan k).answers.lookup ((s.chan k).trains + 1 + n) = some .fail →
    ∃ (t : State) (es : List Event), Sys2Proof.core.run (2 * n + 2) s = .next t ∧ t.Ready ∧ t.inputs = rest ∧
      (t.chan k).dstate = .unspecified ∧
      (t.chan k).trains = (s.chan k).trains + (n + 1) ∧
      t.trace = s.trace ++ es ++ trainEvents k (buildTrain 0 (s.chan k).block.ticks) ++
        [.answered k .fail, .responded k ⟨.txfail, 0⟩, .returned (.arm k) .transmitFailure] ∧
      es = (List.replicate n
        (trainEvents k (buildTrain 0 (s.chan k).block.ticks) ++ [.answered k .done, .responded k ⟨.ok, 0⟩, .waited 20])).flatten ∧
      ∀ j, j ≠ k → t.chan j = s.chan j

/-- GUPD on four configured, idle channels with the answers `done` at hand issues exactly one WRITE per channel, in
the fixed order, with no telemetry and no wait, and returns Ok with DSTATE as it was (R155, R158; the number of steps is the
model's, log entry 12). -/
def Obligations.GupdWritesEachChannelOnce : Prop :=
  ∀ (s : State) (v1 v2 v3 v4 : ThrottleOperand) (rest : List Input), s.Ready →
    (∀ k, (s.chan k).block.busy = false ∧ (s.chan k).block.configured = true ∧
      (s.chan k).answers.lookup ((s.chan k).trains + 1) = some .done) →
    s.inputs = .host (.call (.gupd v1 v2 v3 v4)) :: rest →
    let sent := fun k v => trainEvents k (buildTrain (createFrame v false) (s.chan k).block.ticks) ++
      [Event.answered k .done, .responded k ⟨.ok, (createFrame v false).setWidth 32⟩]
    ∃ t : State, Sys2Proof.core.run 6 s = .next t ∧ t.Ready ∧ t.inputs = rest ∧
      t.trace = s.trace ++ sent .motor1 v1 ++ sent .motor2 v2 ++ sent .motor3 v3 ++ sent .motor4 v4 ++
        [.returned (.gupd v1 v2 v3 v4) .ok] ∧
      (∀ k, (t.chan k).trains = (s.chan k).trains + 1 ∧ (t.chan k).dstate = (s.chan k).dstate) ∧
      t.motor1.block.frame = createFrame v1 false ∧ t.motor2.block.frame = createFrame v2 false ∧
      t.motor3.block.frame = createFrame v3 false ∧ t.motor4.block.frame = createFrame v4 false

/-- A driver sequence whose command is answered with TXFAIL is over at once: it returns TransmitFailure, DSTATE of that
channel is Unspecified and of no other changed, and nothing it still had to do is done (R152, R155, R156, R176). -/
def Obligations.TxfailAbortsSequence : Prop :=
  ∀ (s t : State) (q : Sequence) (k : ChannelId) (i : Instr) (todo : List HostItem), s.block.busy = false →
    s.seq = some q → q.todo = .issue k i :: todo → step s = .next t →
    (∃ d, (t.chan k).response = some ⟨.txfail, d⟩) → (s.chan k).block.busy = false →
    t.seq = none ∧ (t.chan k).dstate = .unspecified ∧ t.inputs = s.inputs ∧ t.sel = k ∧
      t.trace.getLast? = some (.returned q.op .transmitFailure) ∧ ∀ j, j ≠ k → t.chan j = s.chan j

/-- GARM on four configured, idle channels with 100 answers `done` each at hand: 100 ticks in lockstep, each one
zero-throttle WRITE per channel in the fixed order and then one wait of 20 ms; all four end Armed and the result is Ok
(R152, R154; the number of steps is the model's, log entry 12). -/
def Obligations.GarmArmsInLockstep : Prop :=
  ∀ (s : State) (rest : List Input), s.Ready →
    (∀ k, (s.chan k).block.busy = false ∧ (s.chan k).block.configured = true ∧
      ∀ n, n < 100 → (s.chan k).answers.lookup ((s.chan k).trains + 1 + n) = some .done) →
    s.inputs = .host (.call .garm) :: rest →
    let sent := fun k => trainEvents k (buildTrain 0 (s.chan k).block.ticks) ++
      [Event.answered k .done, .responded k ⟨.ok, 0⟩]
    ∃ t : State, Sys2Proof.core.run 502 s = .next t ∧ t.Ready ∧ t.inputs = rest ∧
      t.trace = s.trace ++ (List.replicate 100
        (sent .motor1 ++ sent .motor2 ++ sent .motor3 ++ sent .motor4 ++ [.waited 20])).flatten ++ [.returned .garm .ok] ∧
      ∀ k, (t.chan k).trains = (s.chan k).trains + 100 ∧ (t.chan k).dstate = .armed

/-- A driver sequence that writes to an unconfigured block has no result (R146): the step is refused, which is the model's
reading (log entry 6). -/
def Obligations.SequenceOnUnconfiguredRefused : Prop :=
  ∀ (s : State) (q : Sequence) (k : ChannelId) (v : ThrottleOperand) (b : Bool) (todo : List HostItem),
    s.block.busy = false → s.seq = some q → q.todo = .issue k (.write v b) :: todo →
    (s.chan k).block.busy = false → (s.chan k).block.configured = false →
    step s = .refused .sequenceUnconfigured
end

