-- ==== Sys2Proof/Laws/State.lean ====
section
/-! SUPPORT. What each update of the state does to each part of it: one lemma per part and update. -/

namespace Sys2Proof.Machine

open Sys2Proof

variable (s : State) (k j : ChannelId) (c : Channel) (e : Event) (f : Channel → Channel) (g : Block → Block)

/-! Replacing a channel. -/

@[simp] theorem State.chan_setChan_same : (s.setChan k c).chan k = c := by cases k <;> rfl

theorem State.chan_setChan_ne (h : j ≠ k) : (s.setChan k c).chan j = s.chan j := by
  cases k <;> cases j <;> first | rfl | exact absurd rfl h

theorem State.chan_setChan : (s.setChan k c).chan j = if j = k then c else s.chan j := by
  by_cases h : j = k
  · subst h; simp
  · simp [State.chan_setChan_ne _ _ _ _ h, h]

@[simp] theorem State.sel_setChan : (s.setChan k c).sel = s.sel := by cases k <;> rfl
@[simp] theorem State.inputs_setChan : (s.setChan k c).inputs = s.inputs := by cases k <;> rfl
@[simp] theorem State.seq_setChan : (s.setChan k c).seq = s.seq := by cases k <;> rfl
@[simp] theorem State.trace_setChan : (s.setChan k c).trace = s.trace := by cases k <;> rfl

@[simp] theorem State.setChan_chan_self : s.setChan k (s.chan k) = s := by cases k <;> rfl

@[simp] theorem State.setChan_setChan (d : Channel) : (s.setChan k c).setChan k d = s.setChan k d := by
  cases k <;> rfl

/-! Updates of the host's side leave the channels alone. -/

@[simp] theorem State.chan_with_trace (l : List Event) : { s with trace := l }.chan k = s.chan k := by cases k <;> rfl
@[simp] theorem State.chan_with_inputs (l : List Input) : { s with inputs := l }.chan k = s.chan k := by cases k <;> rfl
@[simp] theorem State.chan_with_seq (q : Option Sequence) : { s with seq := q }.chan k = s.chan k := by cases k <;> rfl
@[simp] theorem State.chan_with_sel : { s with sel := j }.chan k = s.chan k := by cases k <;> rfl
@[simp] theorem State.chan_with_inputs_seq (l : List Input) (q : Option Sequence) :
    { s with inputs := l, seq := q }.chan k = s.chan k := by cases k <;> rfl

/-! Observing an event. -/

@[simp] theorem State.chan_log : (s.log e).chan k = s.chan k := by cases k <;> rfl
@[simp] theorem State.cur_log : (s.log e).cur = s.cur := State.chan_log s s.sel e
@[simp] theorem State.block_log : (s.log e).block = s.block := congrArg Channel.block (State.cur_log s e)
@[simp] theorem State.sel_log : (s.log e).sel = s.sel := rfl
@[simp] theorem State.inputs_log : (s.log e).inputs = s.inputs := rfl
@[simp] theorem State.seq_log : (s.log e).seq = s.seq := rfl
@[simp] theorem State.trace_log : (s.log e).trace = s.trace ++ [e] := rfl

/-! Changing the executing channel. -/

@[simp] theorem State.cur_updCur : (s.updCur f).cur = f s.cur := by simp [State.updCur, State.cur]
@[simp] theorem State.sel_updCur : (s.updCur f).sel = s.sel := by simp [State.updCur]
@[simp] theorem State.inputs_updCur : (s.updCur f).inputs = s.inputs := by simp [State.updCur]
@[simp] theorem State.seq_updCur : (s.updCur f).seq = s.seq := by simp [State.updCur]
@[simp] theorem State.trace_updCur : (s.updCur f).trace = s.trace := by simp [State.updCur]
@[simp] theorem State.block_updCur : (s.updCur f).block = (f s.cur).block := by simp [State.block]
@[simp] theorem State.chan_sel_updCur : (s.updCur f).chan s.sel = f s.cur := by simp [State.updCur, State.cur]

theorem State.chan_updCur_ne (h : k ≠ s.sel) : (s.updCur f).chan k = s.chan k := by
  simp [State.updCur, State.chan_setChan, h]

/-! Changing the executing block. -/

@[simp] theorem State.cur_updBlock : (s.updBlock g).cur = { s.cur with block := g s.block } := by
  simp [State.updBlock, State.block]
@[simp] theorem State.block_updBlock : (s.updBlock g).block = g s.block := by simp [State.updBlock, State.block]
@[simp] theorem State.sel_updBlock : (s.updBlock g).sel = s.sel := by simp [State.updBlock]
@[simp] theorem State.inputs_updBlock : (s.updBlock g).inputs = s.inputs := by simp [State.updBlock]
@[simp] theorem State.seq_updBlock : (s.updBlock g).seq = s.seq := by simp [State.updBlock]
@[simp] theorem State.trace_updBlock : (s.updBlock g).trace = s.trace := by simp [State.updBlock]

theorem State.chan_updBlock_ne (h : k ≠ s.sel) : (s.updBlock g).chan k = s.chan k := State.chan_updCur_ne s k _ h

theorem State.cur_eq_chan_sel : s.cur = s.chan s.sel := rfl
theorem State.block_eq_cur_block : s.block = s.cur.block := rfl

/-! A channel's own fields. -/

@[simp] theorem Block.idle_idle (b : Block) : b.idle.idle = b.idle := rfl
@[simp] theorem Block.busy_idle (b : Block) : b.idle.busy = false := rfl
@[simp] theorem Block.inFlight_idle (b : Block) : b.idle.inFlight = none := rfl

theorem Block.idle_of_not_busy (b : Block) (hb : b.busy = false) (hf : b.inFlight = none) : b.idle = b := by
  cases b; simp_all [Block.idle]

end Sys2Proof.Machine
end

