-- ==== Sys2Proof/Laws/Ops.lean ====
section
/-! SUPPORT. One lemma per shared operation, saying everything it does; later proofs cite these and do not unfold the
operations. -/

namespace Sys2Proof.Machine

open Sys2Proof

/-! Elsewhere: an operation on the executing channel keeps everything else. -/

theorem Elsewhere.rfl' (s : State) : Elsewhere s s := ⟨fun _ _ => rfl, rfl, rfl, rfl, rfl, rfl⟩

theorem Elsewhere.trans {s t u : State} (h : Elsewhere s t) (h' : Elsewhere t u) : Elsewhere s u where
  others k hk := (h'.others k (by rw [h.sel]; exact hk)).trans (h.others k hk)
  sel := h'.sel.trans h.sel
  inputs := h'.inputs.trans h.inputs
  seq := h'.seq.trans h.seq
  answers := h'.answers.trans h.answers
  dstate := h'.dstate.trans h.dstate

theorem elsewhere_updCur (s : State) (f : Channel → Channel) (ha : (f s.cur).answers = s.cur.answers)
    (hd : (f s.cur).dstate = s.cur.dstate) : Elsewhere s (s.updCur f) where
  others k hk := State.chan_updCur_ne s k f hk
  sel := by simp
  inputs := by simp
  seq := by simp
  answers := by simpa using ha
  dstate := by simpa using hd

theorem elsewhere_log (s : State) (e : Event) : Elsewhere s (s.log e) where
  others _ _ := by simp
  sel := rfl
  inputs := rfl
  seq := rfl
  answers := by simp
  dstate := by simp

theorem elsewhere_updBlock (s : State) (g : Block → Block) : Elsewhere s (s.updBlock g) :=
  elsewhere_updCur s _ rfl rfl

/-! Responding. -/

theorem block_respond (s : State) (st : Status) (d : DataWord) : (s.respond st d).block = s.block.idle := by
  simp [State.respond, State.block, Block.idle]

theorem cur_respond (s : State) (st : Status) (d : DataWord) :
    (s.respond st d).cur = { s.cur with block := s.block.idle, response := some ⟨st, d⟩ } := by
  simp [State.respond, State.block, Block.idle]

theorem trace_respond (s : State) (st : Status) (d : DataWord) :
    (s.respond st d).trace = s.trace ++ [.responded s.sel ⟨st, d⟩] := by simp [State.respond]

theorem elsewhere_respond (s : State) (st : Status) (d : DataWord) : Elsewhere s (s.respond st d) :=
  (elsewhere_updCur s _ rfl rfl).trans (elsewhere_log _ _)

/-- A state reached with nothing changed elsewhere and the events `es` observed, then answered, is the end of a command. -/
theorem ended_respond {s u : State} {es : List Event} (st : Status) (d : DataWord) (he : Elsewhere s u)
    (ht : u.trace = s.trace ++ es) : Ended s (u.respond st d) es st d where
  response := by rw [cur_respond]
  trace := by rw [trace_respond, ht, he.sel]
  elsewhere := he.trans (elsewhere_respond u st d)

theorem ended_raise (s : State) (st : Status) : Ended s (s.raise st) [] st 0 :=
  ended_respond st 0 (Elsewhere.rfl' s) (by simp)

/-- A command that only changes registers and answers. -/
theorem ended_updBlock_respond (s : State) (g : Block → Block) (st : Status) (d : DataWord) :
    Ended s ((s.updBlock g).respond st d) [] st d :=
  ended_respond st d (elsewhere_updBlock s g) (by simp)

/-! Accepting. -/

theorem cur_accept (s : State) (k : ChannelId) :
    (s.accept k).cur =
      { s.chan k with block := { (s.chan k).block with busy := true }, response := none } := by
  rw [State.accept, State.cur_updCur]; simp [State.cur]

theorem sel_accept (s : State) (k : ChannelId) : (s.accept k).sel = k := by simp [State.accept]
theorem inputs_accept (s : State) (k : ChannelId) : (s.accept k).inputs = s.inputs := by simp [State.accept]
theorem seq_accept (s : State) (k : ChannelId) : (s.accept k).seq = s.seq := by simp [State.accept]
theorem trace_accept (s : State) (k : ChannelId) : (s.accept k).trace = s.trace := by simp [State.accept]

theorem chan_accept_ne (s : State) (k j : ChannelId) (h : j ≠ k) : (s.accept k).chan j = s.chan j := by
  simp [State.accept, State.updCur, State.chan_setChan, h]

/-! Emitting. -/

/-- One `Emit` at an entry of the train. -/
theorem emitOne_eq (s : State) (h : s.block.pos.toNat < 17) :
    s.emitOne = (s.updBlock fun b => { b with pos := b.pos + 1 }).log
      (.emitted s.sel (s.block.pt[s.block.pos.toNat]).word) := by
  simp [State.emitOne, Vector.getElem?_eq_getElem h]

theorem elsewhere_emitOne (s : State) : Elsewhere s s.emitOne := by
  unfold State.emitOne
  split
  · exact (elsewhere_updBlock s _).trans (elsewhere_log _ _)
  · exact Elsewhere.rfl' s

/-- `n` successive `Emit`s from an entry of the train hand over the next `n` words, in index order. -/
theorem emitMany_spec (n : Nat) : ∀ s : State, s.block.pos.toNat + n ≤ 17 →
    (State.emitMany n s).cur =
        { s.cur with block := { s.block with pos := s.block.pos + BitVec.ofNat 5 n } } ∧
    (State.emitMany n s).trace =
        s.trace ++ ((s.block.pt.toList.drop s.block.pos.toNat).take n).map (fun d => .emitted s.sel d.word) ∧
    Elsewhere s (State.emitMany n s) := by
  induction n with
  | zero => intro s _; exact ⟨by simp [State.emitMany, State.block], by simp [State.emitMany], Elsewhere.rfl' s⟩
  | succ n ih =>
    intro s h
    have hp : s.block.pos.toNat < 17 := by omega
    have hone : (s.block.pos + 1).toNat = s.block.pos.toNat + 1 := by
      have h1 : (1 : BitVec 5).toNat = 1 := rfl
      rw [BitVec.toNat_add, h1, Nat.mod_eq_of_lt (by omega)]
    have hb : s.emitOne.block = { s.block with pos := s.block.pos + 1 } := by rw [emitOne_eq s hp]; simp
    have hc : s.emitOne.cur = { s.cur with block := { s.block with pos := s.block.pos + 1 } } := by
      rw [emitOne_eq s hp]; simp
    have ht : s.emitOne.trace = s.trace ++ [.emitted s.sel (s.block.pt[s.block.pos.toNat]).word] := by
      rw [emitOne_eq s hp]; simp
    have hs : s.emitOne.sel = s.sel := (elsewhere_emitOne s).sel
    obtain ⟨h1, h2, h3⟩ := ih s.emitOne (by rw [hb]; simp only [hone]; omega)
    refine ⟨?_, ?_, (elsewhere_emitOne s).trans h3⟩
    · have hadd : s.block.pos + 1 + BitVec.ofNat 5 n = s.block.pos + BitVec.ofNat 5 (n + 1) := by
        apply BitVec.eq_of_toNat_eq; simp only [BitVec.toNat_add, BitVec.toNat_ofNat, hone]; omega
      rw [State.emitMany, h1, hc, hb]
      simp only [hadd]
    · rw [State.emitMany, h2, ht, hb, hs]
      have hd : s.block.pt.toList.drop s.block.pos.toNat =
          s.block.pt[s.block.pos.toNat] :: s.block.pt.toList.drop (s.block.pos.toNat + 1) := by
        rw [List.drop_eq_getElem_cons (by simpa using hp)]; simp
      simp only [hone]; simp [hd]

/-- The emission step: 17 descriptor words in index order, POS back at 0, one more train handed over. -/
theorem emitTrain_spec (s : State) :
    s.emitTrain.cur = { s.cur with block := { s.block with pos := 0 }, trains := s.cur.trains + 1 } ∧
    s.emitTrain.trace = s.trace ++ trainEvents s.sel s.block.pt ∧
    Elsewhere s s.emitTrain := by
  obtain ⟨h1, h2, h3⟩ := emitMany_spec 17 (s.updBlock fun b => { b with pos := 0 }) (by
    rw [State.block_updBlock]; exact Nat.le_refl 17)
  refine ⟨?_, ?_, ?_⟩
  · rw [State.emitTrain, State.cur_updCur, h1]; simp
  · rw [State.emitTrain, State.trace_updCur, h2]
    simp only [State.block_updBlock, State.trace_updBlock, State.sel_updBlock, trainEvents]
    rw [List.take_of_length_le (by simp)]; rfl
  · rw [State.emitTrain]
    generalize State.emitMany 17 (s.updBlock fun b => { b with pos := 0 }) = u at h3 ⊢
    exact ((elsewhere_updBlock s _).trans h3).trans (elsewhere_updCur u _ rfl rfl)

theorem block_emitTrain (s : State) : s.emitTrain.block = { s.block with pos := 0 } := by
  simp [State.block, (emitTrain_spec s).1]

/-! Waiting for the answer. -/

/-- Everything the end of a `SEND` or `WRITE` does. -/
theorem complete_spec (s : State) (d : DataWord) (a : TxAnswer) :
    (s.complete d a).cur =
        { s.cur with block := s.block.idle, response := some (if a = .done then ⟨.ok, d⟩ else ⟨.txfail, 0⟩) } ∧
    Ended s (s.complete d a) [.answered s.sel a] (if a = .done then .ok else .txfail) (if a = .done then d else 0) := by
  cases a with
  | done =>
    refine ⟨by simp [State.complete, cur_respond], ?_⟩
    simpa [State.complete] using ended_respond .ok d (elsewhere_log s (.answered s.sel .done)) (by simp)
  | fail =>
    refine ⟨by simp [State.complete, State.raise, cur_respond], ?_⟩
    simpa [State.complete, State.raise] using
      ended_respond .txfail 0 (elsewhere_log s (.answered s.sel .fail)) (by simp)

theorem awaitAnswer_some (s : State) (d : DataWord) (a : TxAnswer) (h : s.cur.answer? = some a) :
    s.awaitAnswer d = s.complete d a := by simp [State.awaitAnswer, h]

/-- Without an answer the command stays in flight. -/
theorem awaitAnswer_none (s : State) (d : DataWord) (h : s.cur.answer? = none) :
    (s.awaitAnswer d).cur =
        { s.cur with block := { s.block with busy := true, inFlight := some d }, response := none } ∧
    Waiting s (s.awaitAnswer d) [] := by
  have e : s.awaitAnswer d = s.updCur fun c =>
      { c with block := { c.block with busy := true, inFlight := some d }, response := none } := by
    simp [State.awaitAnswer, h]
  rw [e]
  exact ⟨by simp [State.block], by simp, by simp, elsewhere_updCur s _ rfl rfl⟩

/-! The register map. -/

/-- A read of PT through the register map (20_memory.md R41). -/
theorem regRead_pt (b : Block) (i : Fin 17) :
    b.regRead (BitVec.ofNat 8 (0x10 + i.val)) = some (b.pt[i.val]).word := by
  have h : (BitVec.ofNat 8 (0x10 + i.val)).toNat = 0x10 + i.val := by simp; omega
  have h' : 16 + i.val ≠ 0 ∧ 16 + i.val ≠ 1 := by omega
  unfold Block.regRead
  rw [h]
  split <;> first | omega | skip
  simp

/-- The unmapped indices (20_memory.md R41). -/
theorem regRead_none (b : Block) (r : RegIndex) :
    b.regRead r = none ↔ (0x09 ≤ r.toNat ∧ r.toNat ≤ 0x0F) ∨ 0x21 ≤ r.toNat := by
  unfold Block.regRead
  generalize r.toNat = n
  by_cases h : n < 9
  · interval_cases n <;> simp
  · split <;> first | omega | skip
    split <;> simp <;> omega

end Sys2Proof.Machine
end

