-- ==== Sys2Proof/Laws/Commands.lean ====
section
/-! SUPPORT. The shapes in which a command can end (`Quiet`, `Sent`, `SentWaiting` of Safety.lean), each from the shared
operations, and one inversion lemma for `exec`: if it answers a next state, this is everything that can have happened. -/

namespace Sys2Proof.Machine

open Sys2Proof

/-! The shapes, from the shared operations. -/

theorem quiet_updBlock_respond (s : State) (g : Block → Block) (st : Status) (d : DataWord) :
    Quiet s ((s.updBlock g).respond st d) (g s.block) st d where
  block := by rw [block_respond, State.block_updBlock]
  trains := by rw [cur_respond]; simp
  ended := ended_updBlock_respond s g st d

theorem quiet_respond (s : State) (st : Status) (d : DataWord) : Quiet s (s.respond st d) s.block st d where
  block := block_respond s st d
  trains := by rw [cur_respond]
  ended := ended_respond st d (Elsewhere.rfl' s) (by simp)

theorem quiet_raise (s : State) (st : Status) : Quiet s (s.raise st) s.block st 0 := quiet_respond s st 0

theorem answer_emitTrain (s : State) : s.emitTrain.cur.answer? = s.nextAnswer := by
  simp only [Channel.answer?, State.nextAnswer, (emitTrain_spec s).1]

/-- Emission and an answer at hand, after nothing but a change of registers from `s` to `u`. -/
theorem sent_emitTrain {s u : State} {b : Block} (d : DataWord) (a : TxAnswer) (hu : Elsewhere s u) (hb : u.block = b)
    (ht : u.trace = s.trace) (hn : u.cur.trains = s.cur.trains) (ha : s.nextAnswer = some a) :
    Sent s (u.emitTrain.awaitAnswer d) b a (if a = .done then .ok else .txfail) (if a = .done then d else 0) := by
  have ha' : u.emitTrain.cur.answer? = some a := by
    rw [answer_emitTrain, ← ha]; simp only [State.nextAnswer, hu.answers, hn]
  rw [awaitAnswer_some _ _ _ ha']
  obtain ⟨h1, h2, h3⟩ := emitTrain_spec u
  obtain ⟨c1, c2⟩ := complete_spec u.emitTrain d a
  refine ⟨?_, ?_, c2.response, ?_, hu.trans (h3.trans c2.elsewhere)⟩
  · rw [State.block_eq_cur_block, c1, block_emitTrain, hb]
  · rw [c1, h1, hn]
  · rw [c2.trace, h2, ht, h3.sel, hu.sel, hb]; simp

/-- Emission with no answer at hand, after nothing but a change of registers from `s` to `u`. -/
theorem sentWaiting_emitTrain {s u : State} {b : Block} (d : DataWord) (hu : Elsewhere s u) (hb : u.block = b)
    (ht : u.trace = s.trace) (hn : u.cur.trains = s.cur.trains) (ha : s.nextAnswer = none) :
    SentWaiting s (u.emitTrain.awaitAnswer d) b d := by
  have ha' : u.emitTrain.cur.answer? = none := by
    rw [answer_emitTrain, ← ha]; simp only [State.nextAnswer, hu.answers, hn]
  obtain ⟨h1, h2, h3⟩ := emitTrain_spec u
  obtain ⟨c1, c2⟩ := awaitAnswer_none u.emitTrain d ha'
  refine ⟨?_, ?_, c2.response, ?_, hu.trans (h3.trans c2.elsewhere)⟩
  · rw [State.block_eq_cur_block, c1, block_emitTrain, hb]
  · rw [c1, h1, hn]
  · rw [c2.trace, h2, ht, hu.sel, hb]; simp

/-! What `exec` can do. -/

/-- The end of `SEND` and `WRITE` once the train of `b` is to be sent. -/
def SendEnds (s t : State) (b : Block) (d : DataWord) : Prop :=
  (∃ a, s.nextAnswer = some a ∧ Sent s t b a (if a = .done then .ok else .txfail) (if a = .done then d else 0)) ∨
  (s.nextAnswer = none ∧ SentWaiting s t b d)

/-- Everything a command can have done when it answers a next state. -/
def ExecEnds (s t : State) : Instr → Prop
  | .nop => Quiet s t s.block .ok 0
  | .rst => Quiet s t Block.reset .ok 0
  | .setclk hz => Quiet s t { s.block with clkhz := hz } .ok 0
  | .setdiv d => Quiet s t { s.block with clkdiv := d } .ok 0
  | .setovr t0h t1h => Quiet s t { s.block with ovrT0h := t0h, ovrT1h := t1h } .ok 0
  | .init p o c =>
    (s.block.configured = true ∧ Quiet s t s.block .illstate 0) ∨
    (s.block.configured = false ∧ ∃ tk src, s.block.resolveTiming p o c = .ok (tk, src) ∧
      Quiet s t (s.block.configure p tk src) .ok tk.tpk)
  | .cal p => ∃ tk, s.block.calibrate p = .ok tk ∧ Quiet s t s.block .ok tk.tpk
  | .lut p => Quiet s t s.block .ok (defaultTicks p).tpk
  | .bitper p => Quiet s t s.block .ok (BitVec.ofNat 32 (bitPeriodNs p))
  | .encode v b => Quiet s t { s.block with frame := createFrame v b } .ok ((createFrame v b).setWidth 32)
  | .build f =>
    (s.block.configured = false ∧ Quiet s t s.block .illstate 0) ∨
    (s.block.configured = true ∧ Quiet s t (s.block.loadTrain f) .ok 0)
  | .send =>
    (s.block.ptvalid = false ∧ Quiet s t s.block .illstate 0) ∨
    (s.block.ptvalid = true ∧ SendEnds s t s.block 0)
  | .write v b =>
    (s.block.configured = false ∧ Quiet s t s.block .illstate 0) ∨
    (s.block.configured = true ∧
      SendEnds s t ({ s.block with frame := createFrame v b }.loadTrain (createFrame v b)) ((createFrame v b).setWidth 32))
  | .rd r =>
    (s.block.regRead r = none ∧ Quiet s t s.block .illreg 0) ∨
    (∃ d, s.block.regRead r = some d ∧ Quiet s t s.block .ok d)

theorem next_inj {s t : State} (h : (Host.Outcome.next s : Host.Outcome State Fault Refusal) = .next t) : s = t := by
  cases h; rfl

theorem sendEnds_emitTrain {s u : State} {b : Block} (d : DataWord) (hu : Elsewhere s u) (hb : u.block = b)
    (ht : u.trace = s.trace) (hn : u.cur.trains = s.cur.trains) : SendEnds s (u.emitTrain.awaitAnswer d) b d := by
  cases ha : s.nextAnswer with
  | some a => exact .inl ⟨a, ha, sent_emitTrain d a hu hb ht hn ha⟩
  | none => exact .inr ⟨ha, sentWaiting_emitTrain d hu hb ht hn ha⟩

/-- If `exec` answers a next state, then one of the cases of `ExecEnds` holds. -/
theorem exec_inv {i : Instr} {s t : State} (h : exec i s = .next t) : ExecEnds s t i := by
  cases i with
  | nop => cases next_inj h; exact quiet_respond s _ _
  | rst => cases next_inj h; exact quiet_updBlock_respond s _ _ _
  | setclk hz => cases next_inj h; exact quiet_updBlock_respond s _ _ _
  | setdiv d => cases next_inj h; exact quiet_updBlock_respond s _ _ _
  | setovr t0h t1h => cases next_inj h; exact quiet_updBlock_respond s _ _ _
  | init p o c =>
    simp only [exec, execInit, Block.permitsInit, Bool.not_eq_true'] at h
    split at h
    · rename_i hc
      split at h
      · rename_i tk src hr
        cases next_inj h
        exact .inr ⟨hc, tk, src, hr, quiet_updBlock_respond s (fun b => b.configure p tk src) _ _⟩
      · cases h
    · rename_i hc
      cases next_inj h
      exact .inl ⟨by simpa using hc, quiet_raise s _⟩
  | cal p =>
    simp only [exec, execCal] at h
    split at h
    · rename_i tk hr
      cases next_inj h
      exact ⟨tk, hr, quiet_respond s _ _⟩
    · cases h
  | lut p => cases next_inj h; exact quiet_respond s _ _
  | bitper p => cases next_inj h; exact quiet_respond s _ _
  | encode v b => cases next_inj h; exact quiet_updBlock_respond s _ _ _
  | build f =>
    by_cases hc : s.block.configured = true
    · simp only [exec, execBuild, Block.permitsBuild, hc, if_true] at h
      cases next_inj h
      exact .inr ⟨hc, quiet_updBlock_respond s (fun b => b.loadTrain f) _ _⟩
    · rw [Bool.not_eq_true] at hc
      simp only [exec, execBuild, Block.permitsBuild, hc] at h
      cases next_inj h
      exact .inl ⟨hc, quiet_raise s _⟩
  | send =>
    by_cases hc : s.block.ptvalid = true
    · simp only [exec, execSend, Block.permitsSend, hc, if_true] at h
      cases next_inj h
      exact .inr ⟨hc, sendEnds_emitTrain 0 (Elsewhere.rfl' s) rfl rfl rfl⟩
    · rw [Bool.not_eq_true] at hc
      simp only [exec, execSend, Block.permitsSend, hc] at h
      cases next_inj h
      exact .inl ⟨hc, quiet_raise s _⟩
  | write v b =>
    by_cases hc : s.block.configured = true
    · simp only [exec, execWrite, Block.permitsBuild, hc, if_true] at h
      cases next_inj h
      exact .inr ⟨hc, sendEnds_emitTrain _ (elsewhere_updBlock s _) (State.block_updBlock s _) (by simp) (by simp)⟩
    · rw [Bool.not_eq_true] at hc
      simp only [exec, execWrite, Block.permitsBuild, hc] at h
      cases next_inj h
      exact .inl ⟨hc, quiet_raise s _⟩
  | rd r =>
    simp only [exec, execRd] at h
    split at h
    · rename_i d hr
      cases next_inj h
      exact .inr ⟨d, hr, quiet_respond s _ _⟩
    · rename_i hr
      cases next_inj h
      exact .inl ⟨hr, quiet_raise s _⟩

/-- Whatever the command, it keeps everything elsewhere. -/
theorem SendEnds.elsewhere {s t : State} {b : Block} {d : DataWord} (h : SendEnds s t b d) : Elsewhere s t := by
  rcases h with ⟨_, _, h⟩ | ⟨_, h⟩
  · exact h.ended.elsewhere
  · exact h.waiting.elsewhere

/-- A command ends quietly, or sends a train and ends, or sends a train and waits; only SEND and WRITE send. -/
theorem ExecEnds.shape {s t : State} {i : Instr} (h : ExecEnds s t i) :
    (∃ b st d, Quiet s t b st d) ∨ (∃ b d, SendEnds s t b d ∧ (i = .send ∨ ∃ v x, i = .write v x)) := by
  cases i <;> simp only [ExecEnds] at h
  case init =>
    rcases h with ⟨_, h⟩ | ⟨_, _, _, _, h⟩
    · exact .inl ⟨_, _, _, h⟩
    · exact .inl ⟨_, _, _, h⟩
  case cal => obtain ⟨_, _, h⟩ := h; exact .inl ⟨_, _, _, h⟩
  case build =>
    rcases h with ⟨_, h⟩ | ⟨_, h⟩
    · exact .inl ⟨_, _, _, h⟩
    · exact .inl ⟨_, _, _, h⟩
  case send =>
    rcases h with ⟨_, h⟩ | ⟨_, h⟩
    · exact .inl ⟨_, _, _, h⟩
    · exact .inr ⟨_, _, h, .inl rfl⟩
  case write =>
    rcases h with ⟨_, h⟩ | ⟨_, h⟩
    · exact .inl ⟨_, _, _, h⟩
    · exact .inr ⟨_, _, h, .inr ⟨_, _, rfl⟩⟩
  case rd =>
    rcases h with ⟨_, h⟩ | ⟨_, _, h⟩
    · exact .inl ⟨_, _, _, h⟩
    · exact .inl ⟨_, _, _, h⟩
  all_goals exact .inl ⟨_, _, _, h⟩

end Sys2Proof.Machine
end

