-- ==== Sys2Proof/Laws/Decode.lean ====
section
/-! SUPPORT. The bits of a command word and of its argument, one lemma per format, and the fields of an encoded command. -/

namespace Sys2Proof

/-! Bits of concatenations at the widths of the block. -/

theorem getLsbD_word (op : BitVec 8) (arg : ArgWord) (j : Nat) :
    BitVec.getLsbD (w := 40) (op ++ arg) j = if j < 32 then arg.getLsbD j else op.getLsbD (j - 32) := by
  exact BitVec.getLsbD_append

theorem getLsbD_halves (hi lo : BitVec 16) (j : Nat) :
    BitVec.getLsbD (w := 32) (hi ++ lo) j = if j < 16 then lo.getLsbD j else hi.getLsbD (j - 16) := by
  exact BitVec.getLsbD_append

theorem getLsbD_response (st : BitVec 4) (d : DataWord) (j : Nat) :
    BitVec.getLsbD (w := 36) (st ++ d) j = if j < 32 then d.getLsbD j else st.getLsbD (j - 32) := by
  exact BitVec.getLsbD_append

theorem getLsbD_lowByte (d : BitVec 8) (j : Nat) :
    BitVec.getLsbD (w := 32) (0#24 ++ d) j = (decide (j < 8) && d.getLsbD j) := by
  refine (BitVec.getLsbD_append (x := 0#24) (y := d)).trans ?_
  by_cases h : j < 8 <;> simp [h]

theorem getLsbD_lowHalf (f : BitVec 16) (j : Nat) :
    BitVec.getLsbD (w := 32) (0#16 ++ f) j = (decide (j < 16) && f.getLsbD j) := by
  refine (BitVec.getLsbD_append (x := 0#16) (y := f)).trans ?_
  by_cases h : j < 16 <;> simp [h]

theorem getLsbD_profile (p : BitVec 2) (j : Nat) :
    BitVec.getLsbD (w := 32) (0#30 ++ p) j = (decide (j < 2) && p.getLsbD j) := by
  refine (BitVec.getLsbD_append (x := 0#30) (y := p)).trans ?_
  by_cases h : j < 2 <;> simp [h]

theorem getLsbD_value (t : Bool) (v : BitVec 16) (j : Nat) :
    BitVec.getLsbD (w := 32) (0#15 ++ BitVec.ofBool t ++ v) j =
      if j < 16 then v.getLsbD j else (decide (j = 16) && t) := by
  refine (BitVec.getLsbD_append (x := 0#15 ++ BitVec.ofBool t) (y := v)).trans ?_
  rw [BitVec.getLsbD_append, BitVec.getLsbD_ofBool, BitVec.getLsbD_zero]
  by_cases h : j < 16
  · simp [h]
  · by_cases h' : j = 16
    · simp [h']
    · simp [h, h', show ¬ j - 16 < 1 by omega]

theorem getLsbD_initArg (c o : Bool) (p : BitVec 2) (j : Nat) :
    BitVec.getLsbD (w := 32) (0#22 ++ BitVec.ofBool c ++ BitVec.ofBool o ++ 0#6 ++ p) j =
      if j < 2 then p.getLsbD j else if j = 8 then o else if j = 9 then c else false := by
  refine (BitVec.getLsbD_append (x := 0#22 ++ BitVec.ofBool c ++ BitVec.ofBool o ++ 0#6) (y := p)).trans ?_
  rw [BitVec.getLsbD_append, BitVec.getLsbD_append, BitVec.getLsbD_append, BitVec.getLsbD_ofBool, BitVec.getLsbD_ofBool,
    BitVec.getLsbD_zero, BitVec.getLsbD_zero]
  by_cases h : j < 2
  · simp [h]
  by_cases h8 : j < 8
  · simp [h, show j - 2 < 6 by omega, show j ≠ 8 by omega, show j ≠ 9 by omega]
  by_cases h9 : j = 8
  · simp [h9]
  by_cases h10 : j = 9
  · simp [h10]
  · simp [h, h9, h10, show ¬ j - 2 < 6 by omega, show ¬ j - 2 - 6 < 1 by omega, show ¬ j - 2 - 6 - 1 < 1 by omega]

/-- A reserved field that is zero has every bit zero. -/
theorem getLsbD_of_field_zero {a : ArgWord} {lo n : Nat} (h : a.extractLsb' lo n = 0) (j : Nat) (h1 : lo ≤ j)
    (h2 : j < lo + n) : a.getLsbD j = false := by
  have := congrArg (fun x => x.getLsbD (j - lo)) h
  simpa [show j - lo < n by omega, show lo + (j - lo) = j by omega] using this

/-! The check of the reserved bits. -/

@[simp] theorem ifReservedZero_eq_ok (z : Bool) (i j : Instr) : ifReservedZero z i = .ok j ↔ z = true ∧ i = j := by
  cases z <;> simp [ifReservedZero]

@[simp] theorem ifReservedZero_eq_error (z : Bool) (i : Instr) (e : DecodeError) :
    ifReservedZero z i = .error e ↔ z = false ∧ e = .reservedBit := by
  cases z <;> simp [ifReservedZero, eq_comm]

/-! The fields of an encoded command. -/

@[simp] theorem opField_encode (i : Instr) : opField (encode i) = opcodeOf i := by
  apply BitVec.eq_of_getLsbD_eq
  intro j hj
  simp [opField, encode, getLsbD_word, hj]

@[simp] theorem argField_encode (i : Instr) : argField (encode i) = argOf i := by
  apply BitVec.eq_of_getLsbD_eq
  intro j hj
  simp [argField, encode, getLsbD_word, hj]

@[simp] theorem profileOfCode_profileCode (p : SpeedProfile) : profileOfCode (profileCode p) = p := by
  cases p <;> rfl

theorem profileCode_profileOfCode (p : BitVec 2) : profileCode (profileOfCode p) = p := by
  revert p; decide

/-- A word is its opcode over its argument (30_encoding.md R56). -/
theorem word_eq_append (w : CommandWord) : w = opField w ++ argField w := by
  apply BitVec.eq_of_getLsbD_eq
  intro j hj
  rw [getLsbD_word]
  by_cases h : j < 32
  · simp [argField, h]
  · simp [opField, h, show j - 32 < 8 by omega, show 32 + (j - 32) = j by omega]

/-- Two words are equal when their opcodes and arguments are. -/
theorem word_ext {w w' : CommandWord} (ho : opField w = opField w') (ha : argField w = argField w') : w = w' := by
  rw [word_eq_append w, word_eq_append w', ho, ha]

@[simp] theorem opField_append (op : BitVec 8) (arg : ArgWord) : opField (op ++ arg) = op := by
  apply BitVec.eq_of_getLsbD_eq
  intro j hj
  simp [opField, getLsbD_word, hj]

@[simp] theorem argField_append (op : BitVec 8) (arg : ArgWord) : argField (op ++ arg) = arg := by
  apply BitVec.eq_of_getLsbD_eq
  intro j hj
  simp [argField, getLsbD_word, hj]

/-- Whether a word selects a row is settled by its opcode and its argument apart. -/
theorem selects_iff (r : OpcodeRow) (w : CommandWord) :
    r.selects w = true ↔
      opField w &&& opField r.mask = opField r.pattern ∧ argField w &&& argField r.mask = argField r.pattern := by
  simp only [OpcodeRow.selects, beq_iff_eq]
  constructor
  · intro h
    rw [← h]
    constructor <;> (apply BitVec.eq_of_getLsbD_eq; intro j hj; simp [opField, argField, hj])
  · intro h
    apply word_ext
    · rw [← h.1]; apply BitVec.eq_of_getLsbD_eq; intro j hj; simp [opField, hj]
    · rw [← h.2]; apply BitVec.eq_of_getLsbD_eq; intro j hj; simp [argField, hj]

end Sys2Proof
end

