-- ==== Sys2Proof/Laws/Driver.lean ====
section
/-! SUPPORT. What one step can be (by whose turn it is), what the host's reading of a response does, and what the driver's
bookkeeping leaves alone. -/

namespace Sys2Proof.Machine

open Sys2Proof

theorem cur_of_sel {t : State} {k : ChannelId} (h : t.sel = k) : t.chan k = t.cur := by subst h; rfl

/-! Runs. -/

theorem run_succ (M : Host.Core) (n : Nat) (s : M.State) : M.run (n + 1) s =
    match M.step s with
    | .next t => M.run n t
    | .fault r => .fault r
    | .refused r => .refused r := rfl

theorem run_step {n : Nat} {s t : State} (h : step s = .next t) :
    Sys2Proof.core.run (n + 1) s = Sys2Proof.core.run n t := by
  refine (run_succ Sys2Proof.core n s).trans ?_
  have h' : Sys2Proof.core.step s = .next t := h
  rw [h']

theorem run_trans {m n : Nat} {s t : State} (h : Sys2Proof.core.run n s = .next t) :
    Sys2Proof.core.run (n + m) s = Sys2Proof.core.run m t := by
  induction n generalizing s with
  | zero => cases next_inj h; rw [Nat.zero_add]
  | succ n ih =>
    have hr := (run_succ Sys2Proof.core n s).symm.trans h
    rw [Nat.add_right_comm]
    refine (run_succ Sys2Proof.core (n + m) s).trans ?_
    cases hs : Sys2Proof.core.step s with
    | next u => rw [hs] at hr; exact ih hr
    | fault r => rw [hs] at hr; cases hr
    | refused r => rw [hs] at hr; cases hr

/-! Whose turn it is. -/

theorem step_waiting {s : State} (h : s.block.busy = true) : step s = s.waitStep := by
  simp only [step, State.advance, h, if_true]

theorem step_sequence {s : State} {q : Sequence} (h : s.block.busy = false) (hq : s.seq = some q) :
    step s = s.sequenceStep q := by simp [step, State.advance, h, hq]

theorem step_input {s : State} (h : s.Ready) : step s = s.inputStep := by
  simp [step, State.advance, h.idle, h.noSeq]

/-! The host reads a response. -/

theorem react_waiting {s : State} (h : s.cur.response = none) : s.react = .next s := by
  simp only [State.react, h]

theorem react_free {s : State} {r : Response} (h : s.seq = none) (hr : s.cur.response = some r) :
    s.react = .next (s.noteStatus r.status) := by simp only [State.react, h, hr]

theorem react_response {s : State} {q : Sequence} {r : Response} (hq : s.seq = some q) (hr : s.cur.response = some r) :
    s.react = s.hostReads q r.status := by simp only [State.react, hq, hr]

theorem noteStatus_of_ne {s : State} {st : Status} (h : st ≠ .txfail) : s.noteStatus st = s := by
  cases st <;> first | rfl | exact absurd rfl h

/-- Everything the host's reading can do when it goes on: nothing, or after a transmit failure note DSTATE, in a driver
sequence by giving it up. -/
theorem react_inv {s t : State} (h : s.react = .next t) :
    t = s ∨ ∃ r, s.cur.response = some r ∧ r.status = .txfail ∧
      ((s.seq = none ∧ t = s.setDState s.sel .unspecified) ∨ ∃ q, s.seq = some q ∧ t = s.abortSequence q.op) := by
  cases hr : s.cur.response with
  | none => rw [react_waiting hr] at h; exact .inl (next_inj h).symm
  | some r =>
    cases hq : s.seq with
    | none =>
      rw [react_free hq hr] at h
      by_cases hst : r.status = .txfail
      · refine .inr ⟨r, rfl, hst, .inl ⟨rfl, ?_⟩⟩
        rw [hst] at h; exact (next_inj h).symm
      · rw [noteStatus_of_ne hst] at h; exact .inl (next_inj h).symm
    | some q =>
      rw [react_response hq hr] at h
      cases hst : r.status <;> simp only [hst, State.hostReads] at h
      case ok => exact .inl (next_inj h).symm
      case txfail => exact .inr ⟨r, rfl, hst, .inr ⟨q, rfl, (next_inj h).symm⟩⟩
      case illop => exact .inl (next_inj h).symm
      case illreg => exact .inl (next_inj h).symm
      case illstate => cases h

/-! The driver's bookkeeping changes DSTATE only. -/

theorem chan_setDState (s : State) (k j : ChannelId) (d : DState) :
    (s.setDState k d).chan j = if j = k then { s.chan k with dstate := d } else s.chan j := by
  rw [State.setDState, State.chan_setChan]

@[simp] theorem sel_setDState (s : State) (k : ChannelId) (d : DState) : (s.setDState k d).sel = s.sel := by
  simp [State.setDState]
@[simp] theorem inputs_setDState (s : State) (k : ChannelId) (d : DState) : (s.setDState k d).inputs = s.inputs := by
  simp [State.setDState]
@[simp] theorem seq_setDState (s : State) (k : ChannelId) (d : DState) : (s.setDState k d).seq = s.seq := by
  simp [State.setDState]
@[simp] theorem trace_setDState (s : State) (k : ChannelId) (d : DState) : (s.setDState k d).trace = s.trace := by
  simp [State.setDState]

/-- A change of DSTATE leaves the rest of every channel alone. -/
structure DStateOnly (s t : State) : Prop where
  block    : ∀ k, (t.chan k).block = (s.chan k).block
  response : ∀ k, (t.chan k).response = (s.chan k).response
  trains   : ∀ k, (t.chan k).trains = (s.chan k).trains
  answers  : ∀ k, (t.chan k).answers = (s.chan k).answers
  sel      : t.sel = s.sel
  inputs   : t.inputs = s.inputs

theorem DStateOnly.rfl' (s : State) : DStateOnly s s :=
  ⟨fun _ => rfl, fun _ => rfl, fun _ => rfl, fun _ => rfl, rfl, rfl⟩

theorem DStateOnly.trans {s t u : State} (h : DStateOnly s t) (h' : DStateOnly t u) : DStateOnly s u where
  block k := (h'.block k).trans (h.block k)
  response k := (h'.response k).trans (h.response k)
  trains k := (h'.trains k).trans (h.trains k)
  answers k := (h'.answers k).trans (h.answers k)
  sel := h'.sel.trans h.sel
  inputs := h'.inputs.trans h.inputs

theorem dStateOnly_setDState (s : State) (k : ChannelId) (d : DState) : DStateOnly s (s.setDState k d) where
  block j := by rw [chan_setDState]; split <;> simp_all
  response j := by rw [chan_setDState]; split <;> simp_all
  trains j := by rw [chan_setDState]; split <;> simp_all
  answers j := by rw [chan_setDState]; split <;> simp_all
  sel := by simp
  inputs := by simp

theorem dStateOnly_host (s : State) (q : Option Sequence) (l : List Event) :
    DStateOnly s { s with seq := q, trace := l } := by
  constructor <;> first | rfl | (intro k; cases k <;> rfl)

theorem dStateOnly_log (s : State) (e : Event) : DStateOnly s (s.log e) := by
  constructor <;> first | rfl | (intro k; cases k <;> rfl)

/-- What the driver notes of a response or of a word is DSTATE at most. -/
theorem dStateOnly_noteStatus (s : State) (st : Status) : DStateOnly s (s.noteStatus st) := by
  cases st <;> first | exact .rfl' s | exact dStateOnly_setDState _ _ _

theorem dStateOnly_noteWord (s : State) (k : ChannelId) (w : CommandWord) : DStateOnly s (s.noteWord k w) := by
  unfold State.noteWord
  split
  · exact dStateOnly_setDState _ _ _
  · exact .rfl' s

theorem chan_noteWord (s : State) (k j : ChannelId) (w : CommandWord) :
    (s.noteWord k w).chan j =
      if j = k ∧ decode w = .ok .rst then { s.chan k with dstate := .unarmed } else s.chan j := by
  unfold State.noteWord
  split
  · rename_i h; rw [chan_setDState]; simp [h]
  · rename_i h; rw [if_neg (fun hn => h hn.2)]

theorem seq_noteWord (s : State) (k : ChannelId) (w : CommandWord) : (s.noteWord k w).seq = s.seq := by
  unfold State.noteWord; split <;> simp

theorem trace_noteWord (s : State) (k : ChannelId) (w : CommandWord) : (s.noteWord k w).trace = s.trace := by
  unfold State.noteWord; split <;> simp

theorem dStateOnly_noteSuccess (s : State) (op : DriverOp) : DStateOnly s (s.noteSuccess op) := by
  cases op
  case construct => exact dStateOnly_setDState _ _ _
  case writeThrottle => exact .rfl' _
  case arm => exact dStateOnly_setDState _ _ _
  case garm =>
    exact (((dStateOnly_setDState _ _ _).trans (dStateOnly_setDState _ _ _)).trans (dStateOnly_setDState _ _ _)).trans
      (dStateOnly_setDState _ _ _)
  case gupd => exact .rfl' _

theorem seq_noteSuccess (s : State) (op : DriverOp) : (s.noteSuccess op).seq = s.seq := by
  cases op <;> simp [State.noteSuccess]

theorem trace_noteSuccess (s : State) (op : DriverOp) : (s.noteSuccess op).trace = s.trace := by
  cases op <;> simp [State.noteSuccess]

theorem dStateOnly_abortSequence (s : State) (op : DriverOp) : DStateOnly s (s.abortSequence op) :=
  ((dStateOnly_host s none s.trace).trans (dStateOnly_setDState _ _ _)).trans (dStateOnly_log _ _)

theorem dStateOnly_finishSequence (s : State) (op : DriverOp) : DStateOnly s (s.finishSequence op) :=
  ((dStateOnly_host s none s.trace).trans (dStateOnly_noteSuccess _ _)).trans (dStateOnly_log _ _)

/-- The host's reading changes no block. -/
theorem dStateOnly_react {s t : State} (h : s.react = .next t) : DStateOnly s t := by
  rcases react_inv h with rfl | ⟨_, _, _, ⟨_, rfl⟩ | ⟨q, _, rfl⟩⟩
  · exact .rfl' _
  · exact dStateOnly_setDState _ _ _
  · exact dStateOnly_abortSequence _ _

theorem chan_abortSequence (s : State) (op : DriverOp) (j : ChannelId) :
    (s.abortSequence op).chan j = if j = s.sel then { s.cur with dstate := .unspecified } else s.chan j := by
  simp [State.abortSequence, chan_setDState, State.cur]

theorem seq_abortSequence (s : State) (op : DriverOp) : (s.abortSequence op).seq = none := by
  simp [State.abortSequence]

theorem trace_abortSequence (s : State) (op : DriverOp) :
    (s.abortSequence op).trace = s.trace ++ [.returned op .transmitFailure] := by simp [State.abortSequence]

theorem seq_finishSequence (s : State) (op : DriverOp) : (s.finishSequence op).seq = none := by
  simp [State.finishSequence, seq_noteSuccess]

theorem trace_finishSequence (s : State) (op : DriverOp) :
    (s.finishSequence op).trace = s.trace ++ [.returned op .ok] := by
  simp [State.finishSequence, trace_noteSuccess]

/-! Environment events. -/

theorem chan_hardwareReset (s : State) (k j : ChannelId) :
    (s.hardwareReset k).chan j =
      if j = k then { s.chan k with block := Block.reset, response := none } else s.chan j := by
  rw [State.hardwareReset, State.chan_setChan]
  congr 1

theorem chan_applyEnv_answer (s : State) (k j : ChannelId) (n : Nat) (a : TxAnswer) :
    (s.applyEnv (.answer k n a)).chan j =
      if j = k then { s.chan k with answers := (s.chan k).answers ++ [(n, a)] } else s.chan j := by
  rw [State.applyEnv, State.chan_setChan]

theorem sel_applyEnv (s : State) (e : EnvEvent) : (s.applyEnv e).sel = s.sel := by
  cases e <;> simp [State.applyEnv, State.hardwareReset]

theorem inputs_applyEnv (s : State) (e : EnvEvent) : (s.applyEnv e).inputs = s.inputs := by
  cases e <;> simp [State.applyEnv, State.hardwareReset]

/-- Everything a step does while the host is held: nothing, or one event of the environment. -/
theorem heldStep_inv {s t : State} (h : s.heldStep = .next t) :
    t = s ∨ ∃ e rest, takeEnv s.inputs = some (e, rest) ∧ t = { s with inputs := rest }.applyEnv e := by
  unfold State.heldStep at h
  split at h
  · rename_i e rest he; exact .inr ⟨e, rest, he, (next_inj h).symm⟩
  · exact .inl (next_inj h).symm

/-- Taking an event of the environment leaves the host's own actions as they were, in order. -/
theorem takeEnv_host : ∀ {l rest : List Input} {e : EnvEvent}, takeEnv l = some (e, rest) →
    rest.filter (fun x => match x with | .host _ => true | .env _ => false) =
      l.filter (fun x => match x with | .host _ => true | .env _ => false)
  | .env e' :: l, rest, e, h => by
    simp only [takeEnv, Option.some.injEq, Prod.mk.injEq] at h
    simp [h.2]
  | .host x :: l, rest, e, h => by
    simp only [takeEnv, Option.map_eq_some_iff, Prod.mk.injEq] at h
    obtain ⟨⟨e', r⟩, h, _, rfl⟩ := h
    simp [takeEnv_host h]

theorem takeEnv_none {l : List Input} (h : ∀ e, .env e ∉ l) : takeEnv l = none := by
  induction l with
  | nil => rfl
  | cons x l ih =>
    cases x with
    | env e => exact absurd (List.mem_cons_self ..) (h e)
    | host x => simp [takeEnv, ih fun e he => h e (List.mem_cons_of_mem _ he)]

end Sys2Proof.Machine
end

