-- ==== Sys2Proof/Laws/PerInstr.lean ====
section
/-! SUPPORT. Families of facts about each command as syntax, one lemma per constructor of `Instr`. `EncodeSelectsRow`: the
word of a command selects its own row of the opcode map (30_encoding.md R58). -/

namespace Sys2Proof.Laws.EncodeSelectsRow

open Sys2Proof

/-- The number of a command's row in the opcode map. -/
def rowOf : Instr → Nat
  | .nop => 0
  | .rst => 1
  | .setclk _ => 2
  | .setdiv _ => 3
  | .setovr _ _ => 4
  | .init _ _ _ => 5
  | .cal _ => 6
  | .lut _ => 7
  | .bitper _ => 8
  | .encode _ _ => 9
  | .build _ => 10
  | .send => 11
  | .write _ _ => 12
  | .rd _ => 13

/-- The word of the command selects the command's row. -/
def Statement (i : Instr) : Prop :=
  ∃ r, opcodeMap[rowOf i]? = some r ∧ r.selects (encode i) = true

/-- A command whose argument has only bits of the row's operand fields set selects the row. -/
theorem selects_of_bits {i : Instr} {r : OpcodeRow} (ho : opcodeOf i &&& opField r.mask = opField r.pattern)
    (ha : ∀ j, j < 32 → (argOf i).getLsbD j = true → (argField r.mask).getLsbD j = false)
    (hz : argField r.pattern = 0) : r.selects (encode i) = true := by
  rw [selects_iff, opField_encode, argField_encode]
  refine ⟨ho, ?_⟩
  rw [hz]
  apply BitVec.eq_of_getLsbD_eq
  intro j hj
  rw [BitVec.getLsbD_and]
  cases h : (argOf i).getLsbD j
  · simp
  · simp [ha j hj h]

/-- Below a bound, a mask's bits are checked one by one. -/
theorem mask_low {m : BitVec 32} {n : Nat} (h : ∀ j : Fin n, m.getLsbD j.val = false) (j : Nat) (hj : j < n) :
    m.getLsbD j = false := h ⟨j, hj⟩

theorem nop : Statement .nop := ⟨_, rfl, by decide⟩
theorem rst : Statement .rst := ⟨_, rfl, by decide⟩
theorem send : Statement .send := ⟨_, rfl, by decide⟩

theorem setclk (hz : ClockHz) : Statement (.setclk hz) :=
  ⟨_, rfl, selects_of_bits (by simp only [opcodeOf]; decide) (fun j hj _ => mask_low (n := 32) (by decide) j hj) (by decide)⟩

theorem setdiv (d : ClockDiv) : Statement (.setdiv d) := by
  refine ⟨_, rfl, selects_of_bits (by simp only [opcodeOf]; decide) (fun j _ h => mask_low (n := 8) (by decide) j ?_) (by decide)⟩
  simp only [argOf, getLsbD_lowByte, Bool.and_eq_true, decide_eq_true_eq] at h
  exact h.1

theorem setovr (t0h t1h : Tick) : Statement (.setovr t0h t1h) :=
  ⟨_, rfl, selects_of_bits (by simp only [opcodeOf]; decide) (fun j hj _ => mask_low (n := 32) (by decide) j hj) (by decide)⟩

theorem init (p : SpeedProfile) (o c : Bool) : Statement (.init p o c) := by
  refine ⟨_, rfl, ?_⟩
  cases p <;> cases o <;> cases c <;> decide

theorem cal (p : SpeedProfile) : Statement (.cal p) := ⟨_, rfl, by cases p <;> decide⟩
theorem lut (p : SpeedProfile) : Statement (.lut p) := ⟨_, rfl, by cases p <;> decide⟩
theorem bitper (p : SpeedProfile) : Statement (.bitper p) := ⟨_, rfl, by cases p <;> decide⟩

theorem value_bit {t : Bool} {v : BitVec 16} {j : Nat}
    (h : BitVec.getLsbD (w := 32) (0#15 ++ BitVec.ofBool t ++ v) j = true) : j < 17 := by
  rw [getLsbD_value] at h
  split at h
  · omega
  · simp only [Bool.and_eq_true, decide_eq_true_eq] at h; omega

theorem encode (v : ThrottleOperand) (t : Bool) : Statement (.encode v t) :=
  ⟨_, rfl, selects_of_bits (by simp only [opcodeOf]; decide) (fun j _ h => mask_low (n := 17) (by decide) j (value_bit h)) (by decide)⟩

theorem write (v : ThrottleOperand) (t : Bool) : Statement (.write v t) :=
  ⟨_, rfl, selects_of_bits (by simp only [opcodeOf]; decide) (fun j _ h => mask_low (n := 17) (by decide) j (value_bit h)) (by decide)⟩

theorem build (f : Frame) : Statement (.build f) := by
  refine ⟨_, rfl, selects_of_bits (by simp only [opcodeOf]; decide) (fun j _ h => mask_low (n := 16) (by decide) j ?_) (by decide)⟩
  simp only [argOf, getLsbD_lowHalf, Bool.and_eq_true, decide_eq_true_eq] at h
  exact h.1

theorem rd (r : RegIndex) : Statement (.rd r) := by
  refine ⟨_, rfl, selects_of_bits (by simp only [opcodeOf]; decide) (fun j _ h => mask_low (n := 8) (by decide) j ?_) (by decide)⟩
  simp only [argOf, getLsbD_lowByte, Bool.and_eq_true, decide_eq_true_eq] at h
  exact h.1

end Sys2Proof.Laws.EncodeSelectsRow
end

