-- ==== Sys2Proof/Tests/Slice0.lean ====
section
/-! SUPPORT. Tests and witnesses. The expected results are the spec's worked examples and the tables of
95_test_vectors.md; each test names its source. A witness shows that the hypotheses of a statement can be met together. -/

set_option maxRecDepth 20000

namespace Sys2Proof.Tests

open Sys2Proof Sys2Proof.Machine

/-! Small states. -/

/-- A block configured by `INIT DSHOT600` (41_tick_calibrator.md R103). -/
def blockCfg : Block :=
  { Block.reset with configured := true, profile := .dshot600, src := .table, ticks := ⟨50, 100, 100, 50⟩ }

/-- The same after `BUILD 0x7D0A`. -/
def blockBuilt : Block := blockCfg.loadTrain 0x7D0A

/-- The same waiting for the answer to a `SEND`. -/
def blockBusy : Block := { blockBuilt with busy := true, inFlight := some 0 }

/-- The machine with block 1 as given, its collaborator's answers as given and the inputs as given. -/
def st (b : Block) (as : List (Nat × TxAnswer)) (ins : List Input) : State :=
  { State.reset with motor1 := { Channel.reset with block := b, answers := as }, inputs := ins }

/-- The machine with all four blocks configured and every collaborator answering its first trains `done`. -/
def stGroup (as : List (Nat × TxAnswer)) (ins : List Input) : State :=
  let c := { Channel.reset with block := blockCfg, answers := as }
  { State.reset with motor1 := c, motor2 := c, motor3 := c, motor4 := c, inputs := ins }

/-- `n` answers `done`, to trains 1 to `n`. -/
def dones (n : Nat) : List (Nat × TxAnswer) := (List.range n).map fun i => (i + 1, .done)

def nextOf (o : Host.Outcome State Fault Refusal) : Option State :=
  match o with
  | .next t => some t
  | _ => none

def refusalOf (o : Host.Outcome State Fault Refusal) : Option Refusal :=
  match o with
  | .refused r => some r
  | _ => none

/-- The response to a command. -/
def resp (i : Instr) (s : State) : Option Response := (nextOf (exec i s)).bind fun t => t.cur.response

/-- The block after a command. -/
def blk (i : Instr) (s : State) : Option Block := (nextOf (exec i s)).map fun t => t.block

/-- What a command emitted, answered and responded. -/
def evs (i : Instr) (s : State) : Option (List Event) := (nextOf (exec i s)).map fun t => t.trace

/-! Well-formedness: an ill-formed word for each check (30_encoding.md R59), an ill-formed line for each range (R66). -/

theorem smoke_word_reserved_opcode : wellFormedWord 0x0E00000000 = false := by decide
theorem smoke_word_nop_argument : wellFormedWord 0x0000000001 = false := by decide
theorem smoke_word_rst_argument : wellFormedWord 0x0180000000 = false := by decide
theorem smoke_word_setdiv_bit8 : wellFormedWord 0x0300000100 = false := by decide
theorem smoke_word_init_bit2 : wellFormedWord 0x0500000004 = false := by decide
theorem smoke_word_init_bit10 : wellFormedWord 0x0500000400 = false := by decide
theorem smoke_word_cal_bit2 : wellFormedWord 0x0600000004 = false := by decide
theorem smoke_word_lut_bit31 : wellFormedWord 0x0780000000 = false := by decide
theorem smoke_word_bitper_bit2 : wellFormedWord 0x0800000004 = false := by decide
theorem smoke_word_encode_bit17 : wellFormedWord 0x0900020000 = false := by decide
theorem smoke_word_build_bit16 : wellFormedWord 0x0A00010000 = false := by decide
theorem smoke_word_send_argument : wellFormedWord 0x0B00000001 = false := by decide
theorem smoke_word_write_bit17 : wellFormedWord 0x0C000203E8 = false := by decide
theorem smoke_word_rd_bit8 : wellFormedWord 0x0D00000100 = false := by decide
theorem smoke_word_accepted : wellFormedWord 0x0202625A00 = true ∧ wellFormedWord 0x05FFFFFFFF = false ∧
    wellFormedWord 0x0500000303 = true := by decide

theorem smoke_asm_out_of_range :
    (Asm.setclk 4294967296).wellFormed = false ∧ (Asm.setdiv 256).wellFormed = false ∧
    (Asm.setovr 65536 0).wellFormed = false ∧ (Asm.setovr 0 65536).wellFormed = false ∧
    (Asm.init 4 false false).wellFormed = false ∧ (Asm.cal 4).wellFormed = false ∧ (Asm.lut 4).wellFormed = false ∧
    (Asm.bitper 4).wellFormed = false ∧ (Asm.encode 65536 0).wellFormed = false ∧ (Asm.encode 0 2).wellFormed = false ∧
    (Asm.build 65536).wellFormed = false ∧ (Asm.write 65536 0).wellFormed = false ∧ (Asm.write 0 2).wellFormed = false ∧
    (Asm.rd 256).wellFormed = false := by decide

theorem smoke_asm_boundary :
    (Asm.setclk 4294967295).wellFormed = true ∧ (Asm.setdiv 255).wellFormed = true ∧
    (Asm.setovr 65535 65535).wellFormed = true ∧ (Asm.init 3 true true).wellFormed = true ∧
    (Asm.encode 65535 1).wellFormed = true ∧ (Asm.rd 255).wellFormed = true := by decide

/-! Decoding: words written out bit by bit from R56 to R58: `op` over `arg`. -/

theorem test_decode_nop : decode 0b00000000_00000000000000000000000000000000 = .ok .nop := by decide
theorem test_decode_rst : decode 0b00000001_00000000000000000000000000000000 = .ok .rst := by decide
theorem test_decode_setclk : decode 0b00000010_00000010011000100101101000000000 = .ok (.setclk 40000000) := by decide
theorem test_decode_setdiv : decode 0b00000011_00000000000000000000000000000010 = .ok (.setdiv 2) := by decide
theorem test_decode_setovr : decode 0b00000100_0000000001111000_0000000000111100 = .ok (.setovr 60 120) := by decide
theorem test_decode_init : decode 0b00000101_0000000000000000000000_0_1_000000_01 = .ok (.init .dshot300 true false) := by
  decide
theorem test_decode_init_clk :
    decode 0b00000101_0000000000000000000000_1_0_000000_11 = .ok (.init .dshot1200 false true) := by decide
theorem test_decode_cal : decode 0b00000110_000000000000000000000000000000_11 = .ok (.cal .dshot1200) := by decide
theorem test_decode_lut : decode 0b00000111_000000000000000000000000000000_10 = .ok (.lut .dshot600) := by decide
theorem test_decode_bitper : decode 0b00001000_000000000000000000000000000000_00 = .ok (.bitper .dshot150) := by decide
theorem test_decode_encode :
    decode 0b00001001_000000000000000_1_0000010000010111 = .ok (.encode 1047 true) := by decide
theorem test_decode_build : decode 0b00001010_0000000000000000_0111110100001010 = .ok (.build 0x7D0A) := by decide
theorem test_decode_send : decode 0b00001011_00000000000000000000000000000000 = .ok .send := by decide
theorem test_decode_write :
    decode 0b00001100_000000000000000_0_0000001111101000 = .ok (.write 1000 false) := by decide
theorem test_decode_rd : decode 0b00001101_000000000000000000000000_00100000 = .ok (.rd 0x20) := by decide

/-- The host's reading of the table: the row's word, numbered as the table numbers it, and a word it refuses. -/
theorem test_decodeTableWord : decodeTableWord 40 0x0A00007D0A = some (.build 0x7D0A) ∧
    decodeTableWord 40 0x0E00000000 = none := by decide

/-- The word placed as the host's next command runs as the very first step from reset. -/
theorem test_withFetchWord :
    ((nextOf (step (State.reset.withFetchWord 40 0x0500000002))).map fun t => (t.block.ticks, t.cur.response)) =
      some (⟨50, 100, 100, 50⟩, some ⟨.ok, 0x00640032⟩) := by decide

/-! One step each. -/

/-- R136. -/
theorem test_nop : resp .nop State.reset = some ⟨.ok, 0⟩ ∧ Response.word ⟨.illreg, 0⟩ = 0x300000000 := by decide

/-- R137, the worked example: the registers go back, CLKHZ to 80 000 000. -/
theorem test_rst : blk .rst (st { blockBuilt with clkhz := 5, clkdiv := 9, frame := 0x7D0A, ovrT0h := 60 } [] []) =
    some Block.reset ∧ resp .rst (st blockBuilt [] []) = some ⟨.ok, 0⟩ := by decide

/-- R100. -/
theorem test_setclk : blk (.setclk 40000000) State.reset = some { Block.reset with clkhz := 40000000 } := by decide

/-- R101, and R93: zero is stored. -/
theorem test_setdiv : blk (.setdiv 2) State.reset = some { Block.reset with clkdiv := 2 } ∧
    resp (.setdiv 0) State.reset = some ⟨.ok, 0⟩ := by decide

/-- R102: index 0x08 then reads 0x0078003C. -/
theorem test_setovr : ((blk (.setovr 60 120) State.reset).bind fun b => b.regRead 0x08) = some 0x0078003C := by decide

/-- 95_test_vectors.md 2.2, INIT rows: the clock path, and the override winning over a zero clock. -/
theorem test_init_clock : resp (.init .dshot1200 false true) (st { Block.reset with clkhz := 40000000 } [] []) =
    some ⟨.ok, 0x0019000D⟩ ∧
    (blk (.init .dshot1200 false true) (st { Block.reset with clkhz := 40000000 } [] [])).map (·.statusWord) =
      some 0x0000002D := by decide
theorem test_init_override :
    (blk (.init .dshot300 true true) (st { Block.reset with clkhz := 0, ovrT0h := 60, ovrT1h := 120 } [] [])).map
      (fun b => (b.ticks, b.statusWord)) = some (⟨60, 120, 120, 60⟩, 0x00000035) := by decide

/-- R104, the worked example with a tie, and 95_test_vectors.md 2.2, 100 000 000 / 3, DShot600. -/
theorem test_cal : resp (.cal .dshot1200) (st { Block.reset with clkhz := 40000000 } [] []) = some ⟨.ok, 0x0019000D⟩ ∧
    resp (.cal .dshot600) (st { Block.reset with clkhz := 100000000, clkdiv := 3 } [] []) = some ⟨.ok, 0x002A0015⟩ := by
  decide
theorem test_cal_refused : refusalOf (exec (.cal .dshot150) (st { Block.reset with clkhz := 0 } [] [])) = some .clockHzZero ∧
    refusalOf (exec (.cal .dshot150) (st { Block.reset with clkdiv := 0 } [] [])) = some .clockDivZero := by decide

/-- R105. -/
theorem test_lut : resp (.lut .dshot1200) (st { Block.reset with clkhz := 0 } [] []) = some ⟨.ok, 0x00320019⟩ := by decide

/-- R106. -/
theorem test_bitper : resp (.bitper .dshot600) State.reset = some ⟨.ok, 0x00000683⟩ := by decide

/-- R78, and 95_test_vectors.md 2.1: a value above 2047. -/
theorem test_encode : resp (.encode 1000 false) State.reset = some ⟨.ok, 0x00007D0A⟩ ∧
    (blk (.encode 2096 true) State.reset).map (·.frame) = some 0x0617 := by decide
theorem test_decode_frame : decodeFrame 0x7D0A = (1000, false, 0xA) ∧ validFrame 0x7D0B = false := by decide

/-- 95_test_vectors.md 2.3: frame bit 15 is PT[0], an invalid checksum is built all the same. -/
theorem test_build : (blk (.build 0x8000) (st blockCfg [] [])).map (fun b => (b.pt[0].word, b.pt[1].word, b.pt[16].word)) =
    some (0x00640032, 0x00320064, 0) := by decide
theorem test_build_unconfigured : resp (.build 0x7D0A) State.reset = some ⟨.illstate, 0⟩ := by decide

/-- R120 with the train of R119's worked example: Z N N N, N N Z N, Z Z Z Z, N Z N Z, T. -/
theorem test_send : (evs .send (st blockBuilt [(1, .done)] [])).map (fun l => l.take 3 ++ l.drop 16) =
    some [.emitted .motor1 0x00320064, .emitted .motor1 0x00640032, .emitted .motor1 0x00640032,
      .emitted .motor1 0x00000000, .answered .motor1 .done, .responded .motor1 ⟨.ok, 0⟩] := by decide
theorem test_send_waits : (blk .send (st blockBuilt [] [])).map (fun b => (b.busy, b.pos)) = some (true, 0) ∧
    resp .send (st blockBuilt [] []) = none ∧ resp .send (st blockCfg [] []) = some ⟨.illstate, 0⟩ := by decide

/-- 95_test_vectors.md 2.4, steps 2 and 4. -/
theorem test_write_done : resp (.write 1000 false) (st blockCfg [(1, .done)] []) = some ⟨.ok, 0x00007D0A⟩ ∧
    (blk (.write 1000 false) (st blockCfg [(1, .done)] [])).map (·.statusWord) = some 0x1B := by decide
theorem test_write_fail : resp (.write 48 false) (st blockCfg [(1, .fail)] []) = some ⟨.txfail, 0⟩ ∧
    (blk (.write 48 false) (st blockCfg [(1, .fail)] [])).map (fun b => (b.frame, b.ptvalid, b.pt[5].word)) =
      some (0x0606, true, 0x00640032) := by decide

/-- R138, the worked examples, and the last mapped and first unmapped indices of R41. -/
theorem test_rd : resp (.rd 0x04) (st blockCfg [] []) = some ⟨.ok, 0x00000064⟩ ∧
    resp (.rd 0x09) (st blockCfg [] []) = some ⟨.illreg, 0⟩ := by decide
theorem test_rd_edges : resp (.rd 0x06) State.reset = some ⟨.ok, 0x04C4B400⟩ ∧
    resp (.rd 0x0F) (st blockBuilt [] []) = some ⟨.illreg, 0⟩ ∧
    resp (.rd 0x11) (st blockBuilt [] []) = some ⟨.ok, 0x00640032⟩ ∧ resp (.rd 0x20) (st blockBuilt [] []) = some ⟨.ok, 0⟩ ∧
    resp (.rd 0x21) (st blockBuilt [] []) = some ⟨.illreg, 0⟩ := by decide

/-- R173: a WRITE with a reserved bit on an unconfigured block reports ILLOP. -/
theorem test_illop_first :
    (nextOf (step (State.reset.withFetchWord 40 0x0C000203E8))).bind (fun t => t.cur.response) = some ⟨.illop, 0⟩ := by decide

/-- R148, the worked example: `CONSTRUCT DSHOT300, CLK 40000000, 1` is `RST; SETCLK; SETDIV; INIT DSHOT300, CLK`. -/
theorem test_construct_plan : planOf (.construct .motor2 .dshot300 none (some (40000000, 1))) =
    [.issue .motor2 .rst, .issue .motor2 (.setclk 40000000), .issue .motor2 (.setdiv 1),
      .issue .motor2 (.init .dshot300 false true)] := by decide

/-- R150: 100 frames and 100 waits, a wait last; R154: a tick is four frames in order and one wait. -/
theorem test_arm_plan : (planOf (.arm .motor1)).length = 200 ∧ (planOf .garm).take 5 =
    [.issue .motor1 (.write 0 false), .issue .motor2 (.write 0 false), .issue .motor3 (.write 0 false),
      .issue .motor4 (.write 0 false), .waitMs 20] ∧ (planOf .garm).length = 500 := by decide

/-! Witnesses. -/

theorem witness_EncodeOfDecode : decode 0x0C000107FF = .ok (.write 2047 true) ∧
    decode 0x0D000000FF = .ok (.rd 0xFF) := by decide

/-- The words where the clauses meet: the last defined and the first reserved opcode, and a reserved bit. -/
theorem witness_DecodeAcceptsExactlyTheOpcodeMap : wellFormedWord 0x0D000000FF = true ∧
    decode 0x0D000000FF = .ok (.rd 0xFF) ∧ decode 0x0D00000100 = .error .reservedBit ∧
    decode 0x0E00000000 = .error .reservedOpcode ∧ decode 0xFFFFFFFFFF = .error .reservedOpcode := by decide

theorem witness_AssemblerFormsEncode : (Asm.setovr 65535 0).wellFormed = true ∧ (Asm.write 65535 1).wellFormed = true ∧
    (Asm.init 3 true true).wellFormed = true ∧ (Asm.rdNamed (.pt 16)).wellFormed = true := by decide

/-- R66, R41: `RD PT16` is `RD 0x20`. -/
theorem test_asm_rd_name : (Asm.rdNamed (.pt 16)).word = 0x0D00000020 ∧ (Asm.rdNamed .t1h).instr = .rd 0x04 := by decide

theorem witness_EncodeLatchesFrame :
    (opField 0x090001FFFF = 0x09 ∧ (argField 0x090001FFFF).extractLsb' 17 15 = 0) ∧
    (opField 0x0900020000 = 0x09 ∧ (argField 0x0900020000).extractLsb' 17 15 ≠ 0) := by decide

theorem witness_SetclkStoresClock : opField 0x02FFFFFFFF = 0x02 := by decide

theorem witness_SetdivStoresDivider :
    (opField 0x03000000FF = 0x03 ∧ (argField 0x03000000FF).extractLsb' 8 24 = 0) ∧
    (opField 0x0300000100 = 0x03 ∧ (argField 0x0300000100).extractLsb' 8 24 ≠ 0) := by decide

theorem witness_SetovrStoresOverride : opField 0x04FFFF0000 = 0x04 := by decide

theorem witness_TickCountIsNearest : 0 < (1 : Nat) := by decide

theorem witness_ClockTicksInRange : (1 : ClockHz) ≠ 0 ∧ (255 : ClockDiv) ≠ 0 ∧ (4294967295 : ClockHz) ≠ 0 := by decide

theorem witness_ZeroCountThreshold : 0 < (255 : Nat) ∧ (255 : ClockDiv) ≠ 0 ∧ (1 : ClockHz) ≠ 0 := by decide

/-- R190: at the threshold the quotient is a tie and rounds to 1. -/
theorem witness_ZeroCountThreshold_boundary : (fromClock .dshot1200 1599999 1).t0h = 0 ∧
    (fromClock .dshot1200 1600000 1).t0h = 1 ∧ (fromClock .dshot150 199999 1).t0h = 0 ∧
    (fromClock .dshot150 200000 1).t0h = 1 := by decide

theorem witness_ReferenceClockGivesDefaultTable : State.reset.block.clkhz = 80000000 ∧ State.reset.block.clkdiv = 1 := by
  decide

theorem witness_CalAnswersClockTicks :
    ((st { Block.reset with clkhz := 1, clkdiv := 255 } [] []).block.clkhz ≠ 0 ∧
      (st { Block.reset with clkhz := 1, clkdiv := 255 } [] []).block.clkdiv ≠ 0) ∧
    (opField 0x0680000000 = 0x06 ∧ (argField 0x0680000000).extractLsb' 2 30 ≠ 0) := by decide

theorem witness_ZeroClockRefused :
    ((st { Block.reset with clkhz := 0 } [] []).block.clkhz = 0 ∧
      (st { Block.reset with clkhz := 0 } [] []).block.configured = false) ∧
    ((st { Block.reset with clkdiv := 0 } [] []).block.clkhz ≠ 0 ∧
      (st { Block.reset with clkdiv := 0 } [] []).block.clkdiv = 0 ∧
      (st { Block.reset with clkdiv := 0 } [] []).block.configured = false) := by decide

theorem witness_LutAnswersDefaultTable : opField 0x0700000004 = 0x07 ∧ (argField 0x0700000004).extractLsb' 2 30 ≠ 0 := by
  decide

theorem witness_BitperAnswersBitPeriod : opField 0x0880000000 = 0x08 ∧ (argField 0x0880000000).extractLsb' 2 30 ≠ 0 := by
  decide

/-- The default table, the override over a zero clock, and the clock path. -/
theorem witness_InitResolvesTiming :
    State.reset.block.configured = false ∧ (false = true ∨ false = false) ∧
    (st { Block.reset with clkhz := 0 } [] []).block.configured = false ∧
    (State.reset.block.clkhz ≠ 0 ∧ State.reset.block.clkdiv ≠ 0) := by decide

theorem witness_InitOnlyOnce : (st blockCfg [] []).block.configured = true ∧ Instr.setclk 0 ≠ .rst ∧
    (∃ t, exec (.setclk 0) (st blockCfg [] []) = .next t) := ⟨by decide, by decide, _, rfl⟩

theorem witness_BuildWritesTrain : (st blockCfg [] []).block.configured = true := by decide

theorem witness_SendTransmitsTrain :
    ((st blockBuilt [(1, .done)] []).block.ptvalid = true ∧ (st blockBuilt [(1, .done)] []).nextAnswer = some .done) ∧
    ((st blockBuilt [(1, .fail)] []).block.ptvalid = true ∧ (st blockBuilt [(1, .fail)] []).nextAnswer = some .fail) := by
  decide

theorem witness_SendWaitsForAnswer :
    (st blockBuilt [] []).block.ptvalid = true ∧ (st blockBuilt [] []).nextAnswer = none := by decide

theorem witness_WriteTransmitsFrame :
    ((st blockCfg [(1, .done)] []).block.configured = true ∧ (st blockCfg [(1, .done)] []).nextAnswer = some .done) ∧
    ((st blockCfg [(1, .fail)] []).block.configured = true ∧ (st blockCfg [(1, .fail)] []).nextAnswer = some .fail) := by
  decide

theorem witness_WriteWaitsForAnswer :
    (st blockCfg [] []).block.configured = true ∧ (st blockCfg [] []).nextAnswer = none := by decide

theorem witness_WriteIsEncodeBuildSend :
    (st blockCfg [(1, .fail)] []).block.configured = true ∧ (st blockCfg [(1, .fail)] []).nextAnswer = some .fail := by
  decide

theorem witness_TrainCarriesFrame : (0 : Tick) ≠ 65535 ∧
    buildTrain 0x8001 (crossWire 0 65535) = buildTrain 0x8001 (crossWire 0 65535) := by decide

theorem witness_NopAnswersOk : opField 0x0000000001 = 0x00 ∧ argField 0x0000000001 ≠ 0 := by decide

theorem witness_RstResetsBlock : opField 0x0180000000 = 0x01 ∧ argField 0x0180000000 ≠ 0 := by decide

/-- The registers as the statement lists them. -/
def regList (s : State) : List (RegIndex × DataWord) :=
  [(0x00, s.block.statusWord), (0x01, s.block.frame.setWidth 32), (0x02, s.block.ticks.t0h.setWidth 32),
    (0x03, s.block.ticks.t0l.setWidth 32), (0x04, s.block.ticks.t1h.setWidth 32), (0x05, s.block.ticks.t1l.setWidth 32),
    (0x06, s.block.clkhz), (0x07, s.block.clkdiv.setWidth 32), (0x08, s.block.ovrT1h ++ s.block.ovrT0h)]

/-- The first and the last register of the list. -/
theorem witness_RdReadsRegisterMap : (0x00, 0x00000019) ∈ regList (st blockCfg [] []) ∧
    (0x08, 0x0078003C) ∈ regList (st { Block.reset with ovrT0h := 60, ovrT1h := 120 } [] []) := by decide

/-- The indices where the mapped and unmapped ranges meet. -/
theorem witness_IllregExactlyUnmapped : ([0x08, 0x09, 0x0F, 0x10, 0x20, 0x21, 0xFF] : List RegIndex).map (fun r =>
      (resp (.rd r) (st blockBuilt [] [])).map (·.status)) =
    [some .ok, some .illreg, some .illreg, some .ok, some .ok, some .illreg, some .illreg] := by decide

/-- Each of the four cases, and each of them met by a next state with that status. -/
theorem witness_IllstateExactlyFourCases :
    resp (.init .dshot150 false false) (st blockCfg [] []) = some ⟨.illstate, 0⟩ ∧
    (st blockCfg [] []).block.configured = true ∧
    resp (.build 0) State.reset = some ⟨.illstate, 0⟩ ∧ resp (.write 0 false) State.reset = some ⟨.illstate, 0⟩ ∧
    State.reset.block.configured = false ∧
    resp .send (st blockCfg [] []) = some ⟨.illstate, 0⟩ ∧ (st blockCfg [] []).block.ptvalid = false := by decide

theorem witness_TxfailExactlyOnFail :
    (∃ t, exec .send (st blockBuilt [(1, .fail)] []) = .next t ∧ t.cur.trains = 1 ∧ t.cur.response = some ⟨.txfail, 0⟩) ∧
    (st blockBuilt [(1, .fail)] []).nextAnswer = some .fail := ⟨⟨_, rfl, by decide, by decide⟩, by decide⟩

theorem witness_RefusalsChangeNothing :
    (∃ t, exec (.rd 0xFF) State.reset = .next t ∧ t.cur.response = some ⟨.illreg, 0⟩) ∧
    (∃ t, exec .send State.reset = .next t ∧ t.cur.response = some ⟨.illstate, 0⟩) ∧
    (∃ t, exec .send (st blockBuilt [(1, .fail)] []) = .next t ∧ t.cur.response = some ⟨.txfail, 0⟩) :=
  ⟨⟨_, rfl, by decide⟩, ⟨_, rfl, by decide⟩, ⟨_, rfl, by decide⟩⟩

theorem witness_OneResponsePerCommand : (∃ t, exec .nop State.reset = .next t) ∧
    (∃ t, exec .send (st blockBuilt [] []) = .next t ∧ t.block.busy = true) := ⟨⟨_, rfl⟩, ⟨_, rfl, by decide⟩⟩

theorem witness_AccessMatrix : (∃ t, exec (.write 1000 false) (st blockCfg [(1, .done)] []) = .next t) ∧
    Instr.write 1000 false ≠ .rst ∧ (∃ t, exec (.init .dshot600 false false) State.reset = .next t) ∧
    (∀ hz, Instr.write 1000 false ≠ .setclk hz) :=
  ⟨⟨_, rfl⟩, by decide, ⟨_, rfl⟩, fun _ h => nomatch h⟩

/-- A command that has a next state, and two states that differ in another channel and in the host's side. -/
theorem witness_CommandsConcernOnlyTheirChannel : (∃ t, exec .rst (st blockBuilt [] []) = .next t) ∧
    (st blockCfg [] []).cur = ({ st blockCfg [] [.host (.waitMs 1)] with motor2 := { Channel.reset with trains := 3 } } : State).cur :=
  ⟨⟨_, rfl⟩, by decide⟩

/-- The same channel under two names: the events differ in the name alone. -/
theorem witness_CommandsConcernOnlyTheirChannel_moved :
    (st blockCfg [] []).cur = ({ State.reset with motor3 := (st blockCfg [] []).motor1, sel := .motor3 } : State).cur := by
  decide

theorem witness_StepRunsDecodedCommand :
    (st blockCfg [] [.host (.command .motor4 0x0900000000)]).Ready ∧
    ((st blockCfg [] [.host (.command .motor4 0x0900000000)]).chan .motor4).block.busy = false ∧
    (st blockCfg [] [.host (.command .motor4 0x0900000000)]).inputs = .host (.command .motor4 0x0900000000) :: [] ∧
    decode 0x0900000000 = .ok (.encode 0 false) := ⟨⟨by decide, by decide⟩, by decide, by decide, by decide⟩

/-- The channel's DSTATE after one step in which the host gives it a word, its block and the answers as given. -/
def dstateAfter (b : Block) (as : List (Nat × TxAnswer)) (w : CommandWord) : Option DState :=
  let s := st b as [.host (.command .motor1 w)]
  (nextOf (step { s with motor1 := { s.motor1 with dstate := .armed } })).map fun t => t.motor1.dstate

/-- R137: RST on its own takes the driver back to Unarmed; R171, U3: so does a transmit failure to Unspecified; no other
command, no illegal RST word and no success moves it. -/
theorem test_bare_rst_dstate : dstateAfter blockCfg [] 0x0100000000 = some .unarmed ∧
    dstateAfter blockCfg [] 0x0100000001 = some .armed ∧ dstateAfter blockCfg [] 0x0000000000 = some .armed := by decide
theorem test_bare_txfail_dstate : dstateAfter blockCfg [(1, .fail)] 0x0C00000030 = some .unspecified ∧
    dstateAfter blockBuilt [(1, .fail)] 0x0B00000000 = some .unspecified ∧
    dstateAfter blockCfg [(1, .done)] 0x0C00000030 = some .armed := by decide

theorem witness_IllegalWordAnswersIllop :
    (st blockCfg [] [.host (.command .motor1 0xFF00000000)]).Ready ∧
    ((st blockCfg [] [.host (.command .motor1 0xFF00000000)]).chan .motor1).block.busy = false ∧
    ((st blockCfg [] [.host (.command .motor1 0xFF00000000)]).chan .motor1).block.inFlight = none ∧
    (st blockCfg [] [.host (.command .motor1 0xFF00000000)]).inputs = .host (.command .motor1 0xFF00000000) :: [] ∧
    wellFormedWord 0xFF00000000 = false := ⟨⟨by decide, by decide⟩, by decide, by decide, by decide, by decide⟩

/-- A host held by a waiting block with an event to come, and with none. -/
theorem witness_WaitingBlockHoldsHost :
    ((st blockBusy [] [.host (.command .motor1 0), .env (.answer .motor1 0 .done)]).block.busy = true ∧
      ∃ t, step (st blockBusy [] [.host (.command .motor1 0), .env (.answer .motor1 0 .done)]) = .next t) ∧
    (st blockBusy [] [.host (.waitMs 20)]).block.busy = true ∧ (st blockBusy [] [.host (.waitMs 20)]).cur.answer? = none ∧
    ∀ e, Input.env e ∉ (st blockBusy [] [.host (.waitMs 20)]).inputs :=
  ⟨⟨by decide, _, rfl⟩, by decide, by decide, fun e h => by simp [st] at h⟩

/-- A state in which the driver sequence of `WRITE_THROTTLE 48, 0` has `todo` left. -/
def stSeq (b : Block) (as : List (Nat × TxAnswer)) (ins : List Input) (todo : List HostItem) : State :=
  { st b as ins with seq := some ⟨.writeThrottle .motor1 48 false, todo⟩ }

theorem witness_WaitMsIsOneEvent :
    ((st blockCfg [] [.host (.waitMs 20)]).Ready ∧ (st blockCfg [] [.host (.waitMs 20)]).inputs = .host (.waitMs 20) :: []) ∧
    (stSeq blockCfg [] [] [.waitMs 20]).block.busy = false ∧
    (stSeq blockCfg [] [] [.waitMs 20]).seq = some ⟨.writeThrottle .motor1 48 false, .waitMs 20 :: []⟩ :=
  ⟨⟨⟨by decide, by decide⟩, by decide⟩, by decide, by decide⟩

/-- Outside a driver sequence and inside one, on either answer. -/
theorem witness_AnswerEndsWaitingCommand :
    ∀ s ∈ [st blockBusy [(0, .done)] [], stSeq blockBusy [(0, .done)] [] []],
      s.block.busy = true ∧ s.block.inFlight = some 0 ∧ s.cur.answer? = some .done := by decide
theorem witness_AnswerEndsWaitingCommand_fail :
    ∀ s ∈ [st blockBusy [(0, .fail)] [], stSeq blockBusy [(0, .fail)] [] [.waitMs 20]],
      s.block.busy = true ∧ s.block.inFlight = some 0 ∧ s.cur.answer? = some .fail := by decide

/-- An idle block; a block waiting outside a driver sequence and inside one; a sequence that waits for a lost response. -/
theorem witness_HardwareResetResetsBlock :
    ((st blockBuilt [] [.env (.hardwareReset .motor1)]).Ready ∧
      (st blockBuilt [] [.env (.hardwareReset .motor1)]).inputs = .env (.hardwareReset .motor1) :: []) ∧
    (∀ s ∈ [st blockBusy [] [.env (.hardwareReset .motor1)], stSeq blockBusy [] [.env (.hardwareReset .motor1)] []],
      s.block.busy = true ∧ s.cur.answer? = none ∧ s.inputs = .env (.hardwareReset s.sel) :: []) ∧
    (stSeq Block.reset [] [.host (.command .motor1 0)] [.lostResponse]).block.busy = false ∧
    (stSeq Block.reset [] [.host (.command .motor1 0)] [.lostResponse]).seq =
      some ⟨.writeThrottle .motor1 48 false, [.lostResponse]⟩ :=
  ⟨⟨⟨by decide, by decide⟩, by decide⟩, by decide, by decide, by decide⟩

/-- R157, R188: the reset under a waiting sequence answers nothing and returns nothing; the sequence still waits. -/
theorem test_reset_under_sequence :
    (nextOf (step (stSeq blockBusy [] [.env (.hardwareReset .motor1)] []))).map (fun t => (t.block, t.seq, t.trace)) =
      some (Block.reset, some ⟨.writeThrottle .motor1 48 false, [.lostResponse]⟩, []) := by decide

/-- A block that is configured, has a train and waits is sound. -/
theorem blockBusy_inv : blockBusy.Inv where
  crossWired _ := ⟨rfl, rfl⟩
  source := by decide
  range _ := by decide
  trainConfigured _ := rfl
  train _ := ⟨0x7D0A, rfl⟩
  noTrain h := by cases h
  frame := by decide
  pos := rfl
  busy := rfl
  inFlight _ := rfl

theorem blockReset_inv : Block.reset.Inv where
  crossWired h := by cases h
  source := by decide
  range := by decide
  trainConfigured h := by cases h
  train h := by cases h
  noTrain _ := rfl
  frame := by decide
  pos := rfl
  busy := rfl
  inFlight h := by cases h

theorem witness_StepKeepsSound : (st blockBusy [(0, .fail)] []).Inv ∧ ∃ t, step (st blockBusy [(0, .fail)] []) = .next t where
  left :=
    { block := fun k => match k with
        | .motor1 => blockBusy_inv
        | .motor2 => blockReset_inv
        | .motor3 => blockReset_inv
        | .motor4 => blockReset_inv
      oneBusy := fun k h => match k with
        | .motor1 => absurd rfl h
        | .motor2 => rfl
        | .motor3 => rfl
        | .motor4 => rfl
      noResponse := fun k _ => match k with
        | .motor1 => rfl
        | .motor2 => rfl
        | .motor3 => rfl
        | .motor4 => rfl }
  right := ⟨_, rfl⟩

theorem witness_CrossWiringKept :
    (∀ k, ((stGroup [] []).chan k).block.configured = true →
      ((stGroup [] []).chan k).block.ticks.t0l = ((stGroup [] []).chan k).block.ticks.t1h ∧
      ((stGroup [] []).chan k).block.ticks.t1l = ((stGroup [] []).chan k).block.ticks.t0h) ∧
    (∃ t, step (stGroup [] []) = .next t) ∧ ((stGroup [] []).chan .motor3).block.configured = true :=
  ⟨fun k _ => by cases k <;> exact ⟨rfl, rfl⟩, ⟨_, rfl⟩, by decide⟩

/-- With an override over a zero clock, and with a clock that is not zero. -/
theorem witness_ConstructConfiguresChannel :
    ((st blockCfg [] [.host (.call (.construct .motor2 .dshot300 (some (60, 120)) (some (0, 0))))]).Ready ∧
      ((st blockCfg [] [.host (.call (.construct .motor2 .dshot300 (some (60, 120)) (some (0, 0))))]).chan
        .motor2).block.busy = false) ∧
    (st blockCfg [] [.host (.call (.construct .motor1 .dshot600 none (some (1, 255))))]).Ready ∧
    ((none : Option (Tick × Tick)) = none → ∀ (hz : ClockHz) (d : ClockDiv), some ((1 : ClockHz), (255 : ClockDiv)) = some (hz, d) →
      hz ≠ 0 ∧ d ≠ 0) :=
  ⟨⟨⟨by decide, by decide⟩, by decide⟩, ⟨by decide, by decide⟩, fun _ _ _ h => by cases h; decide⟩

/-- A host about to call WRITE_THROTTLE on channel 1. -/
def sWrite (a : TxAnswer) : State := st blockCfg [(1, a)] [.host (.call (.writeThrottle .motor1 48 false))]

theorem witness_WriteThrottleWritesOnce : ∀ a ∈ [TxAnswer.done, .fail], (sWrite a).block.busy = false ∧ (sWrite a).seq = none ∧
    ((sWrite a).chan .motor1).block.busy = false ∧ ((sWrite a).chan .motor1).block.configured = true ∧
    (sWrite a).inputs = .host (.call (.writeThrottle .motor1 48 false)) :: [] ∧
    ((sWrite a).chan .motor1).answers.lookup (((sWrite a).chan .motor1).trains + 1) = some a := by decide

/-- A host about to call ARM on channel 1, and one about to call GARM. -/
def sArm (as : List (Nat × TxAnswer)) : State := st blockCfg as [.host (.call (.arm .motor1))]
def sGarm : State := stGroup (dones 100) [.host (.call .garm)]

theorem witness_ArmSendsHundredFrames : (sArm (dones 100)).Ready ∧
    ((sArm (dones 100)).chan .motor1).block.busy = false ∧ ((sArm (dones 100)).chan .motor1).block.configured = true ∧
    (sArm (dones 100)).inputs = .host (.call (.arm .motor1)) :: [] ∧
    (∀ n, n < 100 →
      ((sArm (dones 100)).chan .motor1).answers.lookup (((sArm (dones 100)).chan .motor1).trains + 1 + n) = some .done) :=
  ⟨⟨rfl, rfl⟩, rfl, rfl, rfl, by decide⟩

/-- The hypotheses of ArmStopsAtFirstFailure on a state. -/
def armStops (s : State) (n : Nat) : Prop :=
  s.block.busy = false ∧ s.seq = none ∧ (s.chan .motor1).block.busy = false ∧ (s.chan .motor1).block.configured = true ∧
    s.inputs = .host (.call (.arm .motor1)) :: [] ∧
    (∀ m, m < n → (s.chan .motor1).answers.lookup ((s.chan .motor1).trains + 1 + m) = some .done) ∧
    (s.chan .motor1).answers.lookup ((s.chan .motor1).trains + 1 + n) = some .fail

/-- The first frame fails, and the third (R150's worked example), and the hundredth. -/
theorem witness_ArmStopsAtFirstFailure : armStops (sArm [(1, .fail)]) 0 ∧ armStops (sArm (dones 2 ++ [(3, .fail)])) 2 ∧
    armStops (sArm (dones 99 ++ [(100, .fail)])) 99 := by unfold armStops; decide

theorem witness_GupdWritesEachChannelOnce :
    (stGroup (dones 1) [.host (.call (.gupd 1000 1000 48 2047))]).Ready ∧
    ∀ k, ((stGroup (dones 1) [.host (.call (.gupd 1000 1000 48 2047))]).chan k).block.busy = false ∧
      ((stGroup (dones 1) [.host (.call (.gupd 1000 1000 48 2047))]).chan k).block.configured = true ∧
      ((stGroup (dones 1) [.host (.call (.gupd 1000 1000 48 2047))]).chan k).answers.lookup
        (((stGroup (dones 1) [.host (.call (.gupd 1000 1000 48 2047))]).chan k).trains + 1) = some .done :=
  ⟨⟨by decide, by decide⟩, fun k => by cases k <;> decide⟩

theorem witness_GarmArmsInLockstep : sGarm.Ready ∧ sGarm.inputs = .host (.call .garm) :: [] ∧
    ∀ k, (sGarm.chan k).block.busy = false ∧ (sGarm.chan k).block.configured = true ∧
      ∀ n, n < 100 → (sGarm.chan k).answers.lookup ((sGarm.chan k).trains + 1 + n) = some .done :=
  ⟨⟨rfl, rfl⟩, rfl, fun k => ⟨by cases k <;> rfl, by cases k <;> rfl, by cases k <;> decide⟩⟩

/-- A state in the middle of `WRITE_THROTTLE 48, 0` whose train is answered `fail`. -/
def stWriting (b : Block) : State := stSeq b [(1, .fail)] [] [.issue .motor1 (.write 48 false)]

theorem witness_TxfailAbortsSequence : (stWriting blockCfg).block.busy = false ∧
    (stWriting blockCfg).seq = some ⟨.writeThrottle .motor1 48 false, [.issue .motor1 (.write 48 false)]⟩ ∧
    ((stWriting blockCfg).chan .motor1).block.busy = false ∧
    ∃ t, step (stWriting blockCfg) = .next t ∧ (t.chan .motor1).response = some ⟨.txfail, 0⟩ :=
  ⟨by decide, by decide, by decide, _, rfl, by decide⟩

theorem witness_SequenceOnUnconfiguredRefused : (stWriting Block.reset).block.busy = false ∧
    (stWriting Block.reset).seq = some ⟨.writeThrottle .motor1 48 false, [.issue .motor1 (.write 48 false)]⟩ ∧
    ((stWriting Block.reset).chan .motor1).block.busy = false ∧
    ((stWriting Block.reset).chan .motor1).block.configured = false := by decide

end Sys2Proof.Tests
end

section
/-! The packed words over the natural numbers, and the facts of the frame encoder and the tick calibrator that a sound
block rests on. -/

namespace Sys2Proof.Machine

open Sys2Proof

/-! Packed words (30_encoding.md R60 to R62, 10_state.md R25). -/

/-- Concatenation is a shift by the width of the lower part. -/
theorem toNat_append_eq_add {m n : Nat} (x : BitVec m) (y : BitVec n) :
    (x ++ y).toNat = x.toNat * 2 ^ n + y.toNat := by
  rw [BitVec.toNat_append, ← Nat.shiftLeft_add_eq_or_of_lt y.isLt, Nat.shiftLeft_eq]

theorem toNat_tpkWord (t0h t1h : Tick) : (tpkWord t0h t1h).toNat = t1h.toNat * 65536 + t0h.toNat :=
  toNat_append_eq_add t1h t0h

theorem Descriptor.toNat_word (d : Descriptor) : d.word.toNat = d.high.toNat * 65536 + d.low.toNat :=
  toNat_append_eq_add d.high d.low

theorem Response.toNat_word (r : Response) :
    r.word.toNat = (statusCode r.status).toNat * 4294967296 + r.data.toNat :=
  toNat_append_eq_add (statusCode r.status) r.data

theorem Block.toNat_statusWord (b : Block) :
    b.statusWord.toNat =
      (srcCode b.src).toNat * 16 + (profileCode b.profile).toNat * 4 + b.ptvalid.toNat * 2 + b.configured.toNat := by
  have happend : b.statusWord.toNat =
      (0#26 ++ srcCode b.src ++ profileCode b.profile ++ BitVec.ofBool b.ptvalid).toNat * 2 ^ 1 +
        (BitVec.ofBool b.configured).toNat :=
    toNat_append_eq_add _ _
  rw [happend]
  simp only [toNat_append_eq_add, BitVec.toNat_ofBool, BitVec.toNat_zero]
  omega

/-- Settles O6: each word is its upper field shifted over its lower one, with the codes read off case by case. -/
theorem packedWordLayouts : Obligations.PackedWordLayouts := by
  refine ⟨toNat_tpkWord, Descriptor.toNat_word, fun r => ?_, fun b => ?_⟩
  · rw [Response.toNat_word]
    cases r.status <;> rfl
  · rw [Block.toNat_statusWord]
    cases b.src <;> cases b.profile <;> rfl

/-! Created frames (40_frame_codec.md R72, R73). -/

/-- The mask of a nibble. -/
theorem getLsbD_nibbleMask (j : Nat) : (0xF#16).getLsbD j = decide (j < 4) := by
  rw [BitVec.getLsbD_ofNat, show 0xF = 2 ^ 4 - 1 from rfl, Nat.testBit_two_pow_sub_one, ← Bool.decide_and]
  exact decide_eq_decide.mpr (by omega)

/-- A frame is a created one when each bit of its lowest nibble is the XOR of that bit of the other three. -/
theorem validFrame_iff_columns (f : Frame) :
    validFrame f = true ↔ ∀ j < 4,
      f.getLsbD j = (f.getLsbD (4 + j) ^^ f.getLsbD (8 + j) ^^ f.getLsbD (12 + j)) := by
  rw [validFrame, beq_iff_eq]
  constructor
  · intro h j hj
    simpa [getLsbD_nibbleMask, hj] using congrArg (fun x => x.getLsbD j) h
  · intro h
    apply BitVec.eq_of_getLsbD_eq
    intro j _
    by_cases hj : j < 4
    · simpa [getLsbD_nibbleMask, hj] using h j hj
    · simp [getLsbD_nibbleMask, hj]

/-- The upper twelve bits of a created frame are the payload. -/
theorem getLsbD_createFrame_high (v : ThrottleOperand) (t : Bool) {j : Nat} (hj : j < 12) :
    (createFrame v t).getLsbD (4 + j) = (framePayload v t).getLsbD j := by
  simp [createFrame, frameChecksum, getLsbD_nibbleMask, show 4 + j < 16 by omega, -BitVec.getLsbD_eq_getElem]

/-- The lower four bits of a created frame are the XOR of the payload's nibbles. -/
theorem getLsbD_createFrame_low (v : ThrottleOperand) (t : Bool) {j : Nat} (hj : j < 4) :
    (createFrame v t).getLsbD j =
      ((framePayload v t).getLsbD j ^^ (framePayload v t).getLsbD (4 + j) ^^ (framePayload v t).getLsbD (8 + j)) := by
  simp [createFrame, frameChecksum, getLsbD_nibbleMask, hj, show j < 16 by omega]

theorem validFrame_createFrame (v : ThrottleOperand) (t : Bool) : validFrame (createFrame v t) = true := by
  rw [validFrame_iff_columns]
  intro j hj
  have h4 := getLsbD_createFrame_high v t (j := j) (by omega)
  have h8 := getLsbD_createFrame_high v t (j := 4 + j) (by omega)
  have h12 := getLsbD_createFrame_high v t (j := 8 + j) (by omega)
  rw [← Nat.add_assoc] at h8 h12
  rw [getLsbD_createFrame_low v t hj, h4, h8, h12]

/-! Tick tables (41_tick_calibrator.md R91 to R98). -/

theorem tickCount_mono {h h' : Nat} (hh : h ≤ h') (hz d : Nat) : tickCount h hz d ≤ tickCount h' hz d :=
  Nat.div_le_div_right (Nat.add_le_add_right (Nat.mul_le_mul_right hz hh) _)

/-- No count of the clock path exceeds 21475, the one of the longest high time at the fastest clock (R94). -/
theorem tickCount_le {h hz d : Nat} (hh : h ≤ 10000) (hhz : hz < 4294967296) (hd : 0 < d) :
    tickCount h hz d ≤ 21475 := by
  have hprod : h * hz ≤ 10000 * 4294967295 := Nat.mul_le_mul hh (by omega)
  refine Nat.le_of_lt_succ (Nat.div_lt_of_lt_mul ?_)
  omega

theorem zeroHighHalfNs_le_oneHighHalfNs (p : SpeedProfile) : zeroHighHalfNs p ≤ oneHighHalfNs p := by
  cases p <;> decide

theorem oneHighHalfNs_le (p : SpeedProfile) : oneHighHalfNs p ≤ 10000 := by
  cases p <;> decide

/-- The range in which the counts of the clock path and of the default table lie (R94, R95). -/
def BitTicks.InRange (t : BitTicks) : Prop := t.t0h ≤ t.t1h ∧ t.t1h.toNat ≤ 21475

theorem inRange_fromClock (p : SpeedProfile) (hz : ClockHz) {d : ClockDiv} (hd : d ≠ 0) :
    (fromClock p hz d).InRange := by
  have hdiv : 0 < d.toNat := Nat.pos_of_ne_zero fun h => hd (BitVec.eq_of_toNat_eq h)
  have hmax : tickCount (oneHighHalfNs p) hz.toNat d.toNat ≤ 21475 :=
    tickCount_le (oneHighHalfNs_le p) hz.isLt hdiv
  have hmono := tickCount_mono (zeroHighHalfNs_le_oneHighHalfNs p) hz.toNat d.toNat
  simp only [BitTicks.InRange, fromClock, crossWire, BitVec.le_def, BitVec.toNat_ofNat]
  omega

theorem inRange_defaultTicks (p : SpeedProfile) : (defaultTicks p).InRange := by
  cases p <;> exact ⟨by decide, by decide⟩

/-- The low durations are the other bit's high durations (10_state.md R18). -/
def BitTicks.CrossWired (t : BitTicks) : Prop := t.t0l = t.t1h ∧ t.t1l = t.t0h

theorem crossWired_crossWire (t0h t1h : Tick) : (crossWire t0h t1h).CrossWired := ⟨rfl, rfl⟩

/-- What the timing resolution gives: the source is one of the three paths, with the table of that path (R98). -/
theorem resolveTiming_inv {b : Block} {p : SpeedProfile} {o c : Bool} {t : BitTicks} {src : TimingSource}
    (h : b.resolveTiming p o c = .ok (t, src)) :
    (src = .explicit ∧ t = b.overrideTicks) ∨
    (src = .clock ∧ b.clkdiv ≠ 0 ∧ t = fromClock p b.clkhz b.clkdiv) ∨
    (src = .table ∧ t = defaultTicks p) := by
  unfold Block.resolveTiming at h
  split at h
  · cases h; exact .inl ⟨rfl, rfl⟩
  · split at h
    · unfold Block.calibrate at h
      split at h
      · cases h
      · split at h
        · cases h
        · cases h; exact .inr (.inl ⟨rfl, ‹_›, rfl⟩)
    · cases h; exact .inr (.inr ⟨rfl, rfl⟩)

theorem resolveTiming_crossWired {b : Block} {p : SpeedProfile} {o c : Bool} {t : BitTicks} {src : TimingSource}
    (h : b.resolveTiming p o c = .ok (t, src)) : t.CrossWired := by
  rcases resolveTiming_inv h with ⟨_, rfl⟩ | ⟨_, _, rfl⟩ | ⟨_, rfl⟩
  all_goals exact crossWired_crossWire _ _

theorem resolveTiming_source {b : Block} {p : SpeedProfile} {o c : Bool} {t : BitTicks} {src : TimingSource}
    (h : b.resolveTiming p o c = .ok (t, src)) : src ≠ .unset := by
  rcases resolveTiming_inv h with ⟨rfl, _⟩ | ⟨rfl, _⟩ | ⟨rfl, _⟩
  all_goals decide

theorem resolveTiming_inRange {b : Block} {p : SpeedProfile} {o c : Bool} {t : BitTicks} {src : TimingSource}
    (h : b.resolveTiming p o c = .ok (t, src)) (hsrc : src = .clock ∨ src = .table) : t.InRange := by
  rcases resolveTiming_inv h with ⟨rfl, _⟩ | ⟨_, hd, rfl⟩ | ⟨_, rfl⟩
  · simp at hsrc
  · exact inRange_fromClock p b.clkhz hd
  · exact inRange_defaultTicks p

end Sys2Proof.Machine
end

section
/-! What a command can do to its block, in two parts: the registers it writes (`Block.Writes`) and how it then ends
(`Block.RunsTo`). The access matrix and the invariants are each proved over the two parts. -/

namespace Sys2Proof

/-- `SEND` and `WRITE`, the commands that emit a train. -/
def Instr.Transmits (i : Instr) : Prop := i = .send ∨ ∃ v t, i = .write v t

end Sys2Proof

namespace Sys2Proof.Machine

open Sys2Proof

/-- The registers command `i` can leave in block `b`: those of `b` when it only answers, else `b` with the elements of its
row of the access matrix written (10_state.md R32). -/
inductive Block.Writes (b : Block) : Instr → Block → Prop
  | unwritten (i : Instr) : b.Writes i b
  | rst : b.Writes .rst Block.reset
  | setclk (hz : ClockHz) : b.Writes (.setclk hz) { b with clkhz := hz }
  | setdiv (d : ClockDiv) : b.Writes (.setdiv d) { b with clkdiv := d }
  | setovr (t0h t1h : Tick) : b.Writes (.setovr t0h t1h) { b with ovrT0h := t0h, ovrT1h := t1h }
  | init {p : SpeedProfile} {o c : Bool} {t : BitTicks} {src : TimingSource} (hc : b.configured = false)
      (hr : b.resolveTiming p o c = .ok (t, src)) : b.Writes (.init p o c) (b.configure p t src)
  | encode (v : ThrottleOperand) (t : Bool) : b.Writes (.encode v t) { b with frame := createFrame v t }
  | build (f : Frame) (hc : b.configured = true) : b.Writes (.build f) (b.loadTrain f)
  | write (v : ThrottleOperand) (t : Bool) (hc : b.configured = true) :
      b.Writes (.write v t) ({ b with frame := createFrame v t }.loadTrain (createFrame v t))

/-- How command `i` leaves the block once its registers are those of `b`: answered, or a train sent and answered, or a
train sent and its answer awaited. -/
inductive Block.RunsTo (b : Block) (i : Instr) : Block → Prop
  | answered : b.RunsTo i b.idle
  | sent (hi : i.Transmits) : b.RunsTo i { b with pos := 0 }.idle
  | waiting (hi : i.Transmits) (ht : b.ptvalid = true) (d : DataWord) :
      b.RunsTo i { b with pos := 0, busy := true, inFlight := some d }

theorem Quiet.runsTo {s t : State} {b : Block} {st : Status} {d : DataWord} (h : Quiet s t b st d) (i : Instr) :
    b.RunsTo i t.block := by
  rw [h.block]; exact .answered

theorem SendEnds.runsTo {s t : State} {b : Block} {d : DataWord} (h : SendEnds s t b d) {i : Instr} (hi : i.Transmits)
    (ht : b.ptvalid = true) : b.RunsTo i t.block := by
  rcases h with ⟨_, _, h⟩ | ⟨_, h⟩
  · rw [h.block]; exact .sent hi
  · rw [h.block]; exact .waiting hi ht d

/-- Every command writes the registers of its row and then ends in one of the three ways. -/
theorem ExecEnds.writes_runsTo {s t : State} {i : Instr} (h : ExecEnds s t i) :
    ∃ b, s.block.Writes i b ∧ b.RunsTo i t.block := by
  cases i with
  | nop => exact ⟨_, .unwritten _, h.runsTo _⟩
  | rst => exact ⟨_, .rst, h.runsTo _⟩
  | setclk hz => exact ⟨_, .setclk hz, h.runsTo _⟩
  | setdiv d => exact ⟨_, .setdiv d, h.runsTo _⟩
  | setovr t0h t1h => exact ⟨_, .setovr t0h t1h, h.runsTo _⟩
  | init p o c =>
    rcases h with ⟨_, h⟩ | ⟨hc, _, _, hr, h⟩
    · exact ⟨_, .unwritten _, h.runsTo _⟩
    · exact ⟨_, .init hc hr, h.runsTo _⟩
  | cal p => obtain ⟨_, _, h⟩ := h; exact ⟨_, .unwritten _, h.runsTo _⟩
  | lut p => exact ⟨_, .unwritten _, h.runsTo _⟩
  | bitper p => exact ⟨_, .unwritten _, h.runsTo _⟩
  | encode v b => exact ⟨_, .encode v b, h.runsTo _⟩
  | build f =>
    rcases h with ⟨_, h⟩ | ⟨hc, h⟩
    · exact ⟨_, .unwritten _, h.runsTo _⟩
    · exact ⟨_, .build f hc, h.runsTo _⟩
  | send =>
    rcases h with ⟨_, h⟩ | ⟨ht, h⟩
    · exact ⟨_, .unwritten _, h.runsTo _⟩
    · exact ⟨_, .unwritten _, h.runsTo (.inl rfl) ht⟩
  | write v b =>
    rcases h with ⟨_, h⟩ | ⟨hc, h⟩
    · exact ⟨_, .unwritten _, h.runsTo _⟩
    · exact ⟨_, .write v b hc, h.runsTo (.inr ⟨v, b, rfl⟩) rfl⟩
  | rd r =>
    rcases h with ⟨_, h⟩ | ⟨_, _, h⟩
    · exact ⟨_, .unwritten _, h.runsTo _⟩
    · exact ⟨_, .unwritten _, h.runsTo _⟩

theorem exec_writes_runsTo {i : Instr} {s t : State} (h : exec i s = .next t) :
    ∃ b, s.block.Writes i b ∧ b.RunsTo i t.block :=
  (exec_inv h).writes_runsTo

/-- Ending a command changes POS, BUSY and the command in flight only. -/
theorem Block.RunsTo.registers {b b' : Block} {i : Instr} (h : b.RunsTo i b') :
    ∃ pos busy inFlight, b' = { b with pos := pos, busy := busy, inFlight := inFlight } := by
  cases h <;> exact ⟨_, _, _, rfl⟩

theorem Block.RunsTo.pos_eq {b b' : Block} {i : Instr} (h : b.RunsTo i b') (hi : ¬ i.Transmits) : b'.pos = b.pos := by
  cases h with
  | answered => rfl
  | sent ht => exact absurd ht hi
  | waiting ht => exact absurd ht hi

/-- Settles O41: the registers written are those of the command's row, and POS moves only while a train is sent. -/
theorem accessMatrix : Obligations.AccessMatrix := by
  intro i s t h hrst
  obtain ⟨b, hw, hr⟩ := exec_writes_runsTo h
  obtain ⟨pos, busy, inFlight, hb⟩ := hr.registers
  have hpos : i ≠ .send → (∀ v b, i ≠ .write v b) → t.block.pos = b.pos := fun hs hw =>
    hr.pos_eq fun hi => hi.elim hs fun ⟨v, x, he⟩ => hw v x he
  rw [hb] at hpos ⊢
  cases hw
  case rst => exact absurd rfl hrst
  all_goals simp_all [Block.configure, Block.loadTrain]

end Sys2Proof.Machine
end

section
/-! What one step can do to the blocks and their response ports (`StepMoves`), and the two invariants that follow from
it: cross-wiring and the sound machine. -/

namespace Sys2Proof.Machine

open Sys2Proof

/-! Every block and every response port kept. -/

/-- The blocks, the response ports and the selected channel are those of `s`. -/
structure SamePorts (s t : State) : Prop where
  block    : ∀ k, (t.chan k).block = (s.chan k).block
  response : ∀ k, (t.chan k).response = (s.chan k).response
  sel      : t.sel = s.sel

theorem SamePorts.rfl' (s : State) : SamePorts s s := ⟨fun _ => rfl, fun _ => rfl, rfl⟩

theorem SamePorts.trans {s t u : State} (h : SamePorts s t) (h' : SamePorts t u) : SamePorts s u where
  block k := (h'.block k).trans (h.block k)
  response k := (h'.response k).trans (h.response k)
  sel := h'.sel.trans h.sel

theorem DStateOnly.samePorts {s t : State} (h : DStateOnly s t) : SamePorts s t := ⟨h.block, h.response, h.sel⟩

theorem samePorts_host (s : State) (l : List Input) (q : Option Sequence) (es : List Event) :
    SamePorts s { s with inputs := l, seq := q, trace := es } := by
  refine ⟨fun k => ?_, fun k => ?_, rfl⟩ <;> cases k <;> rfl

/-! One step. -/

/-- What one step can do to a block: nothing, the reset input, an answer, or the complete execution of a command from
acceptance on. -/
inductive BlockMove (b : Block) : Block → Prop
  | kept : BlockMove b b
  | hardwareReset : BlockMove b Block.reset
  | answered : BlockMove b b.idle
  | command {i : Instr} {r b' : Block} (hw : { b with busy := true }.Writes i r) (hr : r.RunsTo i b') : BlockMove b b'

/-- What one step can do to the machine: it moves channel `k` only; a block that is executing after it was so before, or
is the block of the channel the host now waits for and has an empty port; and the host turns to another channel only
when it waits for none. -/
structure StepMoves (s t : State) (k : ChannelId) : Prop where
  others : ∀ j, j ≠ k → (t.chan j).block = (s.chan j).block ∧ (t.chan j).response = (s.chan j).response
  move   : BlockMove (s.chan k).block (t.chan k).block
  busy   : (t.chan k).block.busy = true →
    ((s.chan k).block.busy = true ∧ (t.chan k).response = (s.chan k).response ∧ t.sel = s.sel) ∨
    ((t.chan k).response = none ∧ t.sel = k)
  sel    : t.sel = s.sel ∨ s.block.busy = false

theorem SamePorts.stepMoves {s t : State} (h : SamePorts s t) (k : ChannelId) : StepMoves s t k where
  others j _ := ⟨h.block j, h.response j⟩
  move := by rw [h.block]; exact .kept
  busy hb := .inl ⟨by rwa [h.block] at hb, h.response k, h.sel⟩
  sel := .inl h.sel

theorem StepMoves.of_samePorts {s u v : State} {k : ChannelId} (h : SamePorts s u) (h' : StepMoves u v k) :
    StepMoves s v k := by
  obtain ⟨ho, hm, hb, hs⟩ := h'
  have hblock : u.block = s.block := by rw [State.block, State.cur, h.sel]; exact h.block _
  simp only [h.block, h.response, h.sel, hblock] at ho hm hb hs
  exact ⟨ho, hm, hb, hs⟩

theorem StepMoves.samePorts {s t u : State} {k : ChannelId} (h : StepMoves s t k) (h' : SamePorts t u) :
    StepMoves s u k where
  others j hj := by rw [h'.block, h'.response]; exact h.others j hj
  move := by rw [h'.block]; exact h.move
  busy := by rw [h'.block, h'.response, h'.sel]; exact h.busy
  sel := by rw [h'.sel]; exact h.sel

/-! Events of the environment. -/

theorem stepMoves_hardwareReset (s : State) (k : ChannelId) : StepMoves s (s.hardwareReset k) k where
  others j hj := by simp [chan_hardwareReset, hj]
  move := by simpa [chan_hardwareReset] using .hardwareReset
  busy hb := by simp [chan_hardwareReset, Block.reset] at hb
  sel := .inl (sel_applyEnv s (.hardwareReset k))

theorem samePorts_answer (s : State) (k : ChannelId) (n : Nat) (a : TxAnswer) :
    SamePorts s (s.applyEnv (.answer k n a)) where
  block j := by rw [chan_applyEnv_answer]; split <;> simp_all
  response j := by rw [chan_applyEnv_answer]; split <;> simp_all
  sel := sel_applyEnv s _

theorem stepMoves_applyEnv (s : State) (rest : List Input) (e : EnvEvent) :
    ∃ k, StepMoves s ({ s with inputs := rest }.applyEnv e) k := by
  have hs := samePorts_host s rest s.seq s.trace
  cases e with
  | answer k n a => exact ⟨k, (hs.trans (samePorts_answer _ k n a)).stepMoves k⟩
  | hardwareReset k => exact ⟨k, .of_samePorts hs (stepMoves_hardwareReset _ k)⟩

theorem stepMoves_heldStep {s t : State} (h : s.heldStep = .next t) : ∃ k, StepMoves s t k := by
  rcases heldStep_inv h with rfl | ⟨e, rest, _, rfl⟩
  · exact ⟨t.sel, (SamePorts.rfl' t).stepMoves _⟩
  · exact stepMoves_applyEnv s rest e

/-! The end of a waiting command. -/

theorem Elsewhere.others_ports {s t : State} (h : Elsewhere s t) (j : ChannelId) (hj : j ≠ s.sel) :
    (t.chan j).block = (s.chan j).block ∧ (t.chan j).response = (s.chan j).response := by
  rw [h.others j hj]; exact ⟨rfl, rfl⟩

theorem stepMoves_complete (s : State) (d : DataWord) (a : TxAnswer) : StepMoves s (s.complete d a) s.sel := by
  obtain ⟨hcur, hend⟩ := complete_spec s d a
  have hsel := hend.elsewhere.sel
  have hblock : ((s.complete d a).chan s.sel).block = s.block.idle := by rw [cur_of_sel hsel, hcur]
  exact {
    others := hend.elsewhere.others_ports
    move := by rw [hblock]; exact .answered
    busy := fun hb => by rw [hblock] at hb; cases hb
    sel := .inl hsel }

theorem stepMoves_waitStep {s t : State} (h : s.waitStep = .next t) : ∃ k, StepMoves s t k := by
  unfold State.waitStep at h
  split at h
  · unfold State.resume at h
    split at h
    · exact ⟨s.sel, (stepMoves_complete s _ _).samePorts (dStateOnly_react h).samePorts⟩
    · cases next_inj h; exact ⟨s.sel, (SamePorts.rfl' s).stepMoves _⟩
  · exact stepMoves_heldStep h

/-! The execution of a word. -/

/-- A command still executing has an empty response port (20_memory.md R47). -/
theorem exec_busy_response {i : Instr} {s t : State} (h : exec i s = .next t) (hb : t.block.busy = true) :
    t.cur.response = none := by
  rcases (exec_inv h).shape with ⟨_, _, _, hq⟩ | ⟨_, _, ⟨_, _, hs⟩ | ⟨_, hw⟩, _⟩
  · rw [hq.block] at hb; cases hb
  · rw [hs.block] at hb; cases hb
  · exact hw.waiting.response

/-- No command touches anything but its own channel (10_state.md R29, R33). -/
theorem exec_elsewhere {i : Instr} {s t : State} (h : exec i s = .next t) : Elsewhere s t := by
  rcases (exec_inv h).shape with ⟨_, _, _, hq⟩ | ⟨_, _, hs, _⟩
  · exact hq.ended.elsewhere
  · exact hs.elsewhere

/-- A word that has a next state is an illegal one, answered with ILLOP, or a command that is executed. -/
theorem runWord_inv {s t : State} {w : CommandWord} (h : s.runWord w = .next t) :
    t = s.raise .illop ∨ ∃ i, exec i s = .next t := by
  unfold State.runWord at h
  split at h
  · exact .inr ⟨_, h⟩
  · exact .inl (next_inj h).symm

theorem block_accept (s : State) (k : ChannelId) : (s.accept k).block = { (s.chan k).block with busy := true } := by
  rw [State.block, cur_accept]

/-- From acceptance to the end of the word's execution, before the host reads the response. -/
theorem stepMoves_runWord {s u : State} {k : ChannelId} {w : CommandWord} (h : (s.accept k).runWord w = .next u)
    (hidle : s.block.busy = false) : StepMoves s u k := by
  have hsel := sel_accept s k
  suffices hu : Elsewhere (s.accept k) u ∧ BlockMove (s.chan k).block u.block ∧
      (u.block.busy = true → u.cur.response = none) by
    obtain ⟨he, hm, hb⟩ := hu
    have hcur : u.chan k = u.cur := cur_of_sel (he.sel.trans hsel)
    exact {
      others := fun j hj => by
        rw [← chan_accept_ne s k j hj]; exact he.others_ports j (by rw [hsel]; exact hj)
      move := by rw [hcur]; exact hm
      busy := fun h => .inr ⟨by rw [hcur] at h ⊢; exact hb h, he.sel.trans hsel⟩
      sel := .inr hidle }
  rcases runWord_inv h with rfl | ⟨i, hi⟩
  · have hblock : ((s.accept k).raise .illop).block = (s.chan k).block.idle := by
      rw [(quiet_raise _ _).block, block_accept]; rfl
    refine ⟨(quiet_raise _ _).ended.elsewhere, ?_, fun hb => ?_⟩
    · rw [hblock]; exact .answered
    · rw [hblock] at hb; cases hb
  · obtain ⟨r, hw, hr⟩ := exec_writes_runsTo hi
    rw [block_accept] at hw
    exact ⟨exec_elsewhere hi, .command hw hr, exec_busy_response hi⟩

theorem stepMoves_issue {s t : State} {k : ChannelId} {w : CommandWord} (h : s.issue k w = .next t)
    (hidle : s.block.busy = false) : StepMoves s t k := by
  unfold State.issue at h
  cases hu : (s.accept k).runWord w with
  | next u =>
    rw [hu] at h
    exact (stepMoves_runWord hu hidle).samePorts (dStateOnly_react h).samePorts
  | fault r => rw [hu] at h; cases h
  | refused r => rw [hu] at h; cases h

/-! The host's turn. -/

theorem SamePorts.stepMoves_issue {s u t : State} {k : ChannelId} {w : CommandWord} (hu : SamePorts s u)
    (h : u.issue k w = .next t) (hidle : s.block.busy = false) : StepMoves s t k :=
  .of_samePorts hu (Machine.stepMoves_issue h (by rw [State.block, State.cur, hu.sel, hu.block]; exact hidle))

theorem stepMoves_sequenceStep {s t : State} {q : Sequence} (h : s.sequenceStep q = .next t)
    (hidle : s.block.busy = false) : ∃ k, StepMoves s t k := by
  unfold State.sequenceStep at h
  split at h
  · cases next_inj h
    exact ⟨s.sel, (dStateOnly_finishSequence s _).samePorts.stepMoves _⟩
  · cases next_inj h
    exact ⟨s.sel, (samePorts_host s s.inputs _ _).stepMoves _⟩
  · split at h
    · cases next_inj h; exact ⟨s.sel, (SamePorts.rfl' s).stepMoves _⟩
    · exact ⟨_, (samePorts_host s s.inputs _ s.trace).stepMoves_issue h hidle⟩
  · exact stepMoves_heldStep h

theorem stepMoves_hostStep {s t : State} {rest : List Input} {x : HostOp} (h : s.hostStep rest x = .next t)
    (hidle : s.block.busy = false) : ∃ k, StepMoves s t k := by
  have hrest := samePorts_host s rest s.seq s.trace
  cases x with
  | command k w =>
    simp only [State.hostStep] at h
    split at h
    · cases next_inj h; exact ⟨s.sel, (SamePorts.rfl' s).stepMoves _⟩
    · exact ⟨k, (hrest.trans (dStateOnly_noteWord _ k w).samePorts).stepMoves_issue h hidle⟩
  | waitMs ms => cases next_inj h; exact ⟨s.sel, (samePorts_host s rest s.seq _).stepMoves _⟩
  | call op => cases next_inj h; exact ⟨s.sel, (samePorts_host s rest _ s.trace).stepMoves _⟩

theorem stepMoves_inputStep {s t : State} (h : s.inputStep = .next t) (hidle : s.block.busy = false) :
    ∃ k, StepMoves s t k := by
  unfold State.inputStep at h
  split at h
  · cases next_inj h; exact ⟨s.sel, (SamePorts.rfl' s).stepMoves _⟩
  · cases next_inj h; exact stepMoves_applyEnv s _ _
  · exact stepMoves_hostStep h hidle

/-- Whatever a step does, it is a move of one channel. -/
theorem step_moves {s t : State} (h : step s = .next t) : ∃ k, StepMoves s t k := by
  by_cases hbusy : s.block.busy = true
  · rw [step_waiting hbusy] at h
    exact stepMoves_waitStep h
  · have hidle : s.block.busy = false := by simpa using hbusy
    cases hq : s.seq with
    | some q => rw [step_sequence hidle hq] at h; exact stepMoves_sequenceStep h hidle
    | none => rw [step_input ⟨hidle, hq⟩] at h; exact stepMoves_inputStep h hidle

/-- A property of one block that every move of a block keeps holds of every block after a step. -/
theorem step_keeps_blocks {P : Block → Prop} (hP : ∀ b b', BlockMove b b' → P b → P b') {s t : State}
    (hs : ∀ k, P (s.chan k).block) (h : step s = .next t) (k : ChannelId) : P (t.chan k).block := by
  obtain ⟨k', hk⟩ := step_moves h
  by_cases hkk : k = k'
  · subst hkk; exact hP _ _ hk.move (hs k)
  · rw [(hk.others k hkk).1]; exact hs k

/-! Cross-wiring (10_state.md R18). -/

/-- T0L = T1H and T1L = T0H whenever CONFIGURED = 1. -/
def Block.CrossWired (b : Block) : Prop := b.configured = true → b.ticks.CrossWired

@[simp] theorem Block.configured_loadTrain (b : Block) (f : Frame) : (b.loadTrain f).configured = b.configured := by
  simp only [Block.loadTrain]

@[simp] theorem Block.ticks_loadTrain (b : Block) (f : Frame) : (b.loadTrain f).ticks = b.ticks := by
  simp only [Block.loadTrain]

theorem Block.CrossWired.loadTrain {b : Block} (h : b.CrossWired) (f : Frame) : (b.loadTrain f).CrossWired := by
  simpa [Block.CrossWired] using h

theorem crossWired_reset : Block.reset.CrossWired := fun h => nomatch h

theorem Block.Writes.crossWired {b r : Block} {i : Instr} (h : b.Writes i r) (hb : b.CrossWired) : r.CrossWired := by
  cases h with
  | rst => exact crossWired_reset
  | init _ hr => exact fun _ => resolveTiming_crossWired hr
  | build f => exact hb.loadTrain f
  | write v t => exact Block.CrossWired.loadTrain (b := { b with frame := createFrame v t }) hb _
  | unwritten | setclk | setdiv | setovr | encode => exact hb

theorem BlockMove.crossWired {b b' : Block} (h : BlockMove b b') (hb : b.CrossWired) : b'.CrossWired := by
  cases h with
  | kept => exact hb
  | hardwareReset => exact crossWired_reset
  | answered => exact hb
  | command hw hr =>
    obtain ⟨_, _, _, rfl⟩ := hr.registers
    exact hw.crossWired hb

/-- Settles O52: INIT alone writes the counts of a configured block, and it writes cross-wired ones. -/
theorem crossWiringKept : Obligations.CrossWiringKept := by
  constructor
  · intro k
    cases k <;> exact crossWired_reset
  · intro s t hs h
    exact step_keeps_blocks (P := Block.CrossWired) (fun _ _ => BlockMove.crossWired) hs h

/-! The sound machine. -/

theorem inv_reset : Block.reset.Inv where
  crossWired := crossWired_reset
  source := by decide
  range := by decide
  trainConfigured := by decide
  train h := nomatch h
  noTrain _ := rfl
  frame := by decide
  pos := rfl
  busy := rfl
  inFlight := by decide

/-- The clauses on the registers do not look at BUSY or at the command in flight. -/
theorem Block.Inv.idle {b : Block} (h : b.Inv) : b.idle.Inv :=
  { h with busy := rfl, inFlight := fun hb => nomatch hb }

theorem Block.Inv.configure {b : Block} (h : b.idle.Inv) {p : SpeedProfile} {o c : Bool} {t : BitTicks}
    {src : TimingSource} (hc : b.configured = false) (hr : b.resolveTiming p o c = .ok (t, src)) :
    (b.configure p t src).idle.Inv :=
  have hpt : b.ptvalid = false := by
    cases hp : b.ptvalid with
    | false => rfl
    | true => exact absurd (h.trainConfigured hp) (by simp [Block.idle, hc])
  { h with
    crossWired := fun _ => resolveTiming_crossWired hr
    source := ⟨fun hs => absurd hs (resolveTiming_source hr), fun hf => nomatch hf⟩
    range := resolveTiming_inRange hr
    trainConfigured := fun _ => rfl
    train := fun hp => absurd (hpt.symm.trans hp) (by decide)
    noTrain := h.noTrain }

theorem Block.Inv.withTrain {b : Block} (h : b.idle.Inv) (hc : b.configured = true) {pt : PulseTrain}
    (hpt : ∃ f, pt = buildTrain f b.ticks) : { b with pt := pt, ptvalid := true }.idle.Inv :=
  { h with
    trainConfigured := fun _ => hc
    train := fun _ => hpt
    noTrain := fun hp => nomatch hp
    inFlight := fun hb => nomatch hb }

theorem Block.Inv.loadTrain {b : Block} (h : b.idle.Inv) (hc : b.configured = true) (f : Frame) :
    (b.loadTrain f).idle.Inv :=
  h.withTrain hc ⟨f, rfl⟩

theorem Block.Inv.withFrame {b : Block} (h : b.idle.Inv) (v : ThrottleOperand) (t : Bool) :
    { b with frame := createFrame v t }.idle.Inv :=
  { h with frame := validFrame_createFrame v t }

theorem Block.Writes.inv {b r : Block} {i : Instr} (h : b.Writes i r) (hb : b.idle.Inv) : r.idle.Inv := by
  cases h with
  | unwritten => exact hb
  | rst => exact inv_reset.idle
  | setclk | setdiv | setovr => exact { hb with }
  | init hc hr => exact hb.configure hc hr
  | encode v t => exact hb.withFrame v t
  | build f hc => exact hb.loadTrain hc f
  | write v t hc => exact (hb.withFrame v t).loadTrain hc _

theorem Block.RunsTo.inv {b b' : Block} {i : Instr} (h : b.RunsTo i b') (hb : b.idle.Inv) : b'.Inv := by
  cases h with
  | answered => exact hb
  | sent => exact { hb with pos := rfl }
  | waiting _ ht d => exact { hb with pos := rfl, busy := rfl, inFlight := fun _ => ht }

theorem BlockMove.inv {b b' : Block} (h : BlockMove b b') (hb : b.Inv) : b'.Inv := by
  cases h with
  | kept => exact hb
  | hardwareReset => exact inv_reset
  | answered => exact hb.idle
  | command hw hr => exact hr.inv (hw.inv hb.idle)

/-- A block that executes after the step is the one the host waits for, and its port is empty. -/
theorem StepMoves.busy_waited {s t : State} {k : ChannelId} (h : StepMoves s t k) (hs : s.Inv) {j : ChannelId}
    (hj : (t.chan j).block.busy = true) : j = t.sel ∧ (t.chan j).response = none := by
  have hold (hb : (s.chan j).block.busy = true) : j = s.sel := by
    by_contra hne
    exact absurd (hs.oneBusy j hne) (by simp [hb])
  by_cases hjk : j = k
  · subst hjk
    rcases h.busy hj with ⟨hb, hr, hsel⟩ | ⟨hr, hsel⟩
    · exact ⟨(hold hb).trans hsel.symm, hr.trans (hs.noResponse j hb)⟩
    · exact ⟨hsel.symm, hr⟩
  · obtain ⟨hblock, hresp⟩ := h.others j hjk
    rw [hblock] at hj
    have hjs := hold hj
    refine ⟨?_, hresp.trans (hs.noResponse j hj)⟩
    rcases h.sel with hsel | hidle
    · exact hjs.trans hsel.symm
    · rw [hjs] at hj
      exact absurd (hidle.symm.trans hj) (by decide)

/-- Settles O51: every move of a block keeps it sound, and a step gives the host at most one block to wait for. -/
theorem stepKeepsSound : Obligations.StepKeepsSound := by
  intro s t hs h
  obtain ⟨k, hk⟩ := step_moves h
  exact {
    block := step_keeps_blocks (P := Block.Inv) (fun _ _ => BlockMove.inv) hs.block h
    oneBusy := fun j hj => by
      by_contra hb
      exact hj (hk.busy_waited hs (by simpa using hb)).1
    noResponse := fun j hj => (hk.busy_waited hs hj).2 }

/-- Settles O50: four reset blocks, none of them executing. -/
theorem resetIsSound : Obligations.ResetIsSound where
  block k := by cases k <;> exact inv_reset
  oneBusy k _ := by cases k <;> rfl
  noResponse k _ := by cases k <;> rfl

end Sys2Proof.Machine
end

section
/-! Two states whose executing channels agree, run through the same operations, keep agreeing and observe the same events,
each on its own channel. -/

namespace Sys2Proof.Machine

open Sys2Proof

/-- From `s` and `s'`, whose executing channels agree, the states `u` and `u'` have been reached: their executing channels
agree and the same events were observed on the way. -/
structure Twins (s s' u u' : State) : Prop where
  cur    : u.cur = u'.cur
  sel    : u.sel = s.sel
  sel'   : u'.sel = s'.sel
  events : ∃ es : List Event,
    u.trace = s.trace ++ es.map (Event.onChannel s.sel) ∧ u'.trace = s'.trace ++ es.map (Event.onChannel s'.sel)

/-- The two outcomes of a command are twins, or the same refusal. -/
inductive TwinOutcomes (s s' : State) :
    Host.Outcome State Fault Refusal → Host.Outcome State Fault Refusal → Prop
  | next {u u' : State} (h : Twins s s' u u') : TwinOutcomes s s' (.next u) (.next u')
  | refused (r : Refusal) : TwinOutcomes s s' (.refused r) (.refused r)

theorem Twins.start {s s' : State} (h : s.cur = s'.cur) : Twins s s' s s' := ⟨h, rfl, rfl, [], by simp, by simp⟩

theorem Twins.block {s s' u u' : State} (h : Twins s s' u u') : u.block = u'.block := congrArg Channel.block h.cur

/-- Channel updates that agree, and the same further events, keep twins twins. -/
theorem Twins.extend {s s' u u' v v' : State} (h : Twins s s' u u') (es : List Event) (hcur : v.cur = v'.cur)
    (hv : v.sel = u.sel) (hv' : v'.sel = u'.sel) (ht : v.trace = u.trace ++ es.map (Event.onChannel u.sel))
    (ht' : v'.trace = u'.trace ++ es.map (Event.onChannel u'.sel)) : Twins s s' v v' := by
  obtain ⟨_, hsel, hsel', es₀, he, he'⟩ := h
  refine ⟨hcur, hv.trans hsel, hv'.trans hsel', es₀ ++ es, ?_, ?_⟩
  · rw [ht, he, hsel, List.map_append, List.append_assoc]
  · rw [ht', he', hsel', List.map_append, List.append_assoc]

section

variable {s s' u u' : State}

theorem Twins.updCur (h : Twins s s' u u') (f : Channel → Channel) : Twins s s' (u.updCur f) (u'.updCur f) :=
  h.extend [] (by simp [h.cur]) (by simp) (by simp) (by simp) (by simp)

theorem Twins.updBlock (h : Twins s s' u u') (g : Block → Block) : Twins s s' (u.updBlock g) (u'.updBlock g) :=
  h.updCur _

theorem Twins.log (h : Twins s s' u u') (e : Event) :
    Twins s s' (u.log (e.onChannel u.sel)) (u'.log (e.onChannel u'.sel)) :=
  h.extend [e] (by simp [h.cur]) rfl rfl rfl rfl

theorem Twins.respond (h : Twins s s' u u') (st : Status) (d : DataWord) :
    Twins s s' (u.respond st d) (u'.respond st d) :=
  h.extend [.responded u.sel ⟨st, d⟩] (by rw [cur_respond, cur_respond, h.cur, h.block]) (elsewhere_respond u st d).sel
    (elsewhere_respond u' st d).sel (trace_respond u st d) (trace_respond u' st d)

theorem map_onChannel_trainEvents (k j : ChannelId) (pt : PulseTrain) :
    (trainEvents j pt).map (Event.onChannel k) = trainEvents k pt := by
  simp [trainEvents, Event.onChannel]

theorem Twins.emitTrain (h : Twins s s' u u') : Twins s s' u.emitTrain u'.emitTrain := by
  obtain ⟨hcur, ht, he⟩ := emitTrain_spec u
  obtain ⟨hcur', ht', he'⟩ := emitTrain_spec u'
  refine h.extend (trainEvents u.sel u.block.pt) ?_ he.sel he'.sel ?_ ?_
  · rw [hcur, hcur', h.cur, h.block]
  · rw [ht, map_onChannel_trainEvents]
  · rw [ht', map_onChannel_trainEvents, h.block]

theorem Twins.complete (h : Twins s s' u u') (d : DataWord) (a : TxAnswer) :
    Twins s s' (u.complete d a) (u'.complete d a) := by
  cases a with
  | done => exact (h.log (.answered u.sel .done)).respond .ok d
  | fail => exact (h.log (.answered u.sel .fail)).respond .txfail 0

theorem Twins.awaitAnswer (h : Twins s s' u u') (d : DataWord) : Twins s s' (u.awaitAnswer d) (u'.awaitAnswer d) := by
  unfold State.awaitAnswer
  rw [← h.cur]
  split
  · exact h.complete d _
  · exact h.updCur _

/-- Every command reads its own channel only: from agreeing channels it comes to twin outcomes. -/
theorem exec_twinOutcomes (i : Instr) (h : s.cur = s'.cur) : TwinOutcomes s s' (exec i s) (exec i s') := by
  have start := Twins.start h
  have hblock : s'.block = s.block := start.block.symm
  cases i with
  | nop => exact .next (start.respond _ _)
  | rst => exact .next ((start.updBlock _).respond _ _)
  | setclk hz => exact .next ((start.updBlock _).respond _ _)
  | setdiv d => exact .next ((start.updBlock _).respond _ _)
  | setovr t0h t1h => exact .next ((start.updBlock _).respond _ _)
  | init p o c =>
    simp only [exec, execInit, hblock]
    split
    · split
      · exact .next ((start.updBlock _).respond _ _)
      · exact .refused _
    · exact .next (start.respond _ _)
  | cal p =>
    simp only [exec, execCal, hblock]
    split
    · exact .next (start.respond _ _)
    · exact .refused _
  | lut p => exact .next (start.respond _ _)
  | bitper p => exact .next (start.respond _ _)
  | encode v t => exact .next ((start.updBlock _).respond _ _)
  | build f =>
    simp only [exec, execBuild, hblock]
    split
    · exact .next ((start.updBlock _).respond _ _)
    · exact .next (start.respond _ _)
  | send =>
    simp only [exec, execSend, hblock]
    split
    · exact .next (start.emitTrain.awaitAnswer _)
    · exact .next (start.respond _ _)
  | write v t =>
    simp only [exec, execWrite, hblock]
    split
    · exact .next ((start.updBlock _).emitTrain.awaitAnswer _)
    · exact .next (start.respond _ _)
  | rd r =>
    simp only [exec, execRd, hblock]
    split
    · exact .next (start.respond _ _)
    · exact .next (start.respond _ _)

end

/-- Settles O42: what a command writes is `exec_elsewhere`, what it reads is `exec_twinOutcomes`. -/
theorem commandsConcernOnlyTheirChannel : Obligations.CommandsConcernOnlyTheirChannel := by
  refine ⟨fun _ _ _ => exec_elsewhere, fun i s s' h => ?_⟩
  have hout := exec_twinOutcomes i h
  generalize exec i s = o, exec i s' = o' at hout ⊢
  cases hout with
  | next ht => exact ⟨ht.cur, ht.events⟩
  | refused r => rfl

end Sys2Proof.Machine
end

section
/-! The command port (20_memory.md): what RD reads, the one response to each command, what the host finds when it gives a
word, and how its further actions are held while a block is executing. -/

namespace Sys2Proof.Machine

open Sys2Proof

/-! Reading the register map (20_memory.md R41). -/

/-- RD of a mapped index. -/
theorem exec_rd_mapped {s : State} {r : RegIndex} {d : DataWord} (h : s.block.regRead r = some d) :
    ∃ t, exec (.rd r) s = .next t ∧ Quiet s t s.block .ok d :=
  ⟨s.respond .ok d, by simp only [exec, execRd, h], quiet_respond s .ok d⟩

/-- Settles O35: each index of the register map reads its own view. -/
theorem rdReadsRegisterMap : Obligations.RdReadsRegisterMap := by
  refine fun s => ⟨fun r d h => exec_rd_mapped ?_, fun i => exec_rd_mapped (regRead_pt s.block i)⟩
  simp only [List.mem_cons, List.not_mem_nil, or_false, Prod.mk.injEq] at h
  rcases h with ⟨rfl, rfl⟩ | ⟨rfl, rfl⟩ | ⟨rfl, rfl⟩ | ⟨rfl, rfl⟩ | ⟨rfl, rfl⟩ | ⟨rfl, rfl⟩ | ⟨rfl, rfl⟩ | ⟨rfl, rfl⟩ |
    ⟨rfl, rfl⟩ <;> rfl

/-! The response to a command (20_memory.md R47). -/

/-- The ends of a command by its response: OK without a train sent, a refusal that changes nothing, the answer to the
train it sent, or none yet. -/
inductive CommandEnds (s t : State) (i : Instr) : Prop
  | completed {b : Block} {d : DataWord} (h : Quiet s t b .ok d)
  | declined {st : Status} (hst : st = .illreg ∨ st = .illstate) (h : Quiet s t s.block st 0)
  | sent {b : Block} {a : TxAnswer} {d : DataWord} (hi : i.Transmits)
      (h : Sent s t b a (if a = .done then .ok else .txfail) (if a = .done then d else 0))
  | waiting {b : Block} {d : DataWord} (hi : i.Transmits) (h : SentWaiting s t b d)

theorem SendEnds.commandEnds {s t : State} {b : Block} {d : DataWord} {i : Instr} (h : SendEnds s t b d)
    (hi : i.Transmits) : CommandEnds s t i := by
  rcases h with ⟨a, _, h⟩ | ⟨_, h⟩
  · exact .sent hi h
  · exact .waiting hi h

theorem ExecEnds.commandEnds {s t : State} {i : Instr} (h : ExecEnds s t i) : CommandEnds s t i := by
  cases i with
  | init p o c =>
    rcases h with ⟨_, h⟩ | ⟨_, _, _, _, h⟩
    · exact .declined (.inr rfl) h
    · exact .completed h
  | cal p => obtain ⟨_, _, h⟩ := h; exact .completed h
  | build f =>
    rcases h with ⟨_, h⟩ | ⟨_, h⟩
    · exact .declined (.inr rfl) h
    · exact .completed h
  | send =>
    rcases h with ⟨_, h⟩ | ⟨_, h⟩
    · exact .declined (.inr rfl) h
    · exact h.commandEnds (.inl rfl)
  | write v x =>
    rcases h with ⟨_, h⟩ | ⟨_, h⟩
    · exact .declined (.inr rfl) h
    · exact h.commandEnds (.inr ⟨v, x, rfl⟩)
  | rd r =>
    rcases h with ⟨_, h⟩ | ⟨_, _, h⟩
    · exact .declined (.inl rfl) h
    · exact .completed h
  | nop | rst | setclk | setdiv | setovr | lut | bitper | encode => exact .completed h

theorem exec_commandEnds {i : Instr} {s t : State} (h : exec i s = .next t) : CommandEnds s t i :=
  (exec_inv h).commandEnds

theorem ne_responded_of_mem_trainEvents {k : ChannelId} {pt : PulseTrain} {e : Event} (h : e ∈ trainEvents k pt)
    (j : ChannelId) (r : Response) : e ≠ .responded j r := by
  obtain ⟨_, _, rfl⟩ := List.mem_map.mp h
  exact Event.noConfusion

/-- Settles O40: a train and its answer are no responses, and only a train sent can leave the block waiting. -/
theorem oneResponsePerCommand : Obligations.OneResponsePerCommand := by
  intro i s t h
  cases exec_commandEnds h with
  | completed h =>
    exact .inl ⟨[], _, h.ended.trace, h.ended.response, by rw [h.block]; rfl, by simp⟩
  | declined _ h =>
    exact .inl ⟨[], _, h.ended.trace, h.ended.response, by rw [h.block]; rfl, by simp⟩
  | sent _ h =>
    refine .inl ⟨_, _, h.ended.trace, h.ended.response, by rw [h.block]; rfl, fun e he => ?_⟩
    rcases List.mem_append.mp he with he | he
    · exact ne_responded_of_mem_trainEvents he
    · cases List.mem_singleton.mp he
      exact fun _ _ => Event.noConfusion
  | waiting hi h =>
    exact .inr ⟨_, h.waiting.trace, h.waiting.response, by rw [h.block],
      fun _ => ne_responded_of_mem_trainEvents, hi⟩

/-! The host's actions while a block is executing (20_memory.md R48). -/

theorem heldStep_inputs {s t : State} (h : s.heldStep = .next t) :
    t.inputs = s.inputs ∨ ∃ e, takeEnv s.inputs = some (e, t.inputs) := by
  rcases heldStep_inv h with rfl | ⟨e, rest, he, rfl⟩
  · exact .inl rfl
  · exact .inr ⟨e, by rw [inputs_applyEnv, he]⟩

theorem resume_inputs {s t : State} {a : TxAnswer} (h : s.resume a = .next t) : t.inputs = s.inputs := by
  unfold State.resume at h
  split at h
  · exact (dStateOnly_react h).inputs.trans (complete_spec s _ a).2.elsewhere.inputs
  · rw [next_inj h]

/-- A waiting block takes no input but an event of the environment. -/
theorem waitStep_inputs {s t : State} (h : s.waitStep = .next t) :
    t.inputs = s.inputs ∨ ∃ e, takeEnv s.inputs = some (e, t.inputs) := by
  unfold State.waitStep at h
  split at h
  · exact .inl (resume_inputs h)
  · exact heldStep_inputs h

/-- With no answer and no event to come, waiting changes nothing (42_pulse_train_sequencer.md R124). -/
theorem waitStep_hangs {s : State} (ha : s.cur.answer? = none) (he : ∀ e, .env e ∉ s.inputs) :
    s.waitStep = .next s := by
  simp only [State.waitStep, State.heldStep, ha, takeEnv_none he]

/-- Settles O46: the step of an executing block is `waitStep`; the run is by induction on its length. -/
theorem waitingBlockHoldsHost : Obligations.WaitingBlockHoldsHost := by
  refine ⟨fun s t hbusy h => ?_, fun n s hbusy ha he => ?_⟩
  · rw [step_waiting hbusy] at h
    rcases waitStep_inputs h with hin | ⟨e, he⟩
    · rw [hin]
    · exact takeEnv_host he
  · have hstep : step s = .next s := (step_waiting hbusy).trans (waitStep_hangs ha he)
    induction n with
    | zero => rfl
    | succ n ih => exact (run_step hstep).trans ih

/-! The host gives a word (20_memory.md R46, 30_encoding.md R69). -/

/-- The machine as channel `k` begins to execute the word `w` the host has given it: noted by the driver and accepted, with
the inputs `rest` still to come. -/
def State.given (s : State) (k : ChannelId) (w : CommandWord) (rest : List Input) : State :=
  ({ s with inputs := rest }.noteWord k w).accept k

section

variable (s : State) (k : ChannelId) (w : CommandWord) (rest : List Input)

theorem sel_given : (s.given k w rest).sel = k := sel_accept _ k

theorem seq_given : (s.given k w rest).seq = s.seq := by rw [State.given, seq_accept, seq_noteWord]

theorem trace_given : (s.given k w rest).trace = s.trace := by rw [State.given, trace_accept, trace_noteWord]

theorem inputs_given : (s.given k w rest).inputs = rest := by
  rw [State.given, inputs_accept, (dStateOnly_noteWord _ k w).inputs]

theorem chan_given_ne {j : ChannelId} (hj : j ≠ k) : (s.given k w rest).chan j = s.chan j := by
  rw [State.given, chan_accept_ne _ k j hj, chan_noteWord, if_neg fun h => hj h.1, State.chan_with_inputs]

theorem cur_given {i : Instr} (hw : decode w = .ok i) :
    (s.given k w rest).cur = { s.chan k with
      block := { (s.chan k).block with busy := true }
      response := none
      dstate := if i = .rst then .unarmed else (s.chan k).dstate } := by
  rw [State.given, cur_accept, chan_noteWord]
  by_cases hi : i = .rst <;> simp [hw, hi]

end

theorem step_given {s : State} {k : ChannelId} {w : CommandWord} {rest : List Input} (hs : s.Ready)
    (hk : (s.chan k).block.busy = false) (hin : s.inputs = .host (.command k w) :: rest) :
    step s = afterBlock ((s.given k w rest).runWord w) := by
  rw [step_input hs]
  simp only [State.inputStep, hin, State.hostStep, hk, Bool.false_eq_true, if_false, State.issue, State.given]

theorem runWord_decoded {w : CommandWord} {i : Instr} (hw : decode w = .ok i) (s : State) : s.runWord w = exec i s := by
  simp only [State.runWord, hw]

/-- A transmit failure is answered with data 0 (60_exceptions.md R170). -/
theorem exec_txfail_data {i : Instr} {s t : State} {r : Response} (h : exec i s = .next t)
    (hr : t.cur.response = some r) (hst : r.status = .txfail) : r = ⟨.txfail, 0⟩ := by
  cases exec_commandEnds h with
  | completed h => cases h.ended.response.symm.trans hr; cases hst
  | declined hd h =>
    cases h.ended.response.symm.trans hr
    rcases hd with rfl | rfl <;> cases hst
  | @sent _ a _ _ h =>
    cases h.ended.response.symm.trans hr
    cases a with
    | done => cases hst
    | fail => rfl
  | waiting _ h => cases h.waiting.response.symm.trans hr

/-- The reading of a response outside a driver sequence, when it is no transmit failure. -/
theorem exec_react_of_ne {i : Instr} {s t : State} (h : exec i s = .next t) (hseq : s.seq = none)
    (hr : t.cur.response ≠ some ⟨.txfail, 0⟩) : t.react = .next t := by
  cases hc : t.cur.response with
  | none => exact react_waiting hc
  | some r =>
    have hst : r.status ≠ .txfail := fun hst => hr (by rw [hc, exec_txfail_data h hc hst])
    rw [react_free ((exec_elsewhere h).seq.trans hseq) hc, noteStatus_of_ne hst]

/-- The reading of a transmit failure outside a driver sequence. -/
theorem exec_react_txfail {i : Instr} {s t : State} (h : exec i s = .next t) (hseq : s.seq = none)
    (hr : t.cur.response = some ⟨.txfail, 0⟩) : t.react = .next (t.setDState s.sel .unspecified) := by
  have he := exec_elsewhere h
  rw [react_free (he.seq.trans hseq) hr, ← he.sel]
  rfl

/-- Settles O44: the word is noted and accepted (`State.given`), executed, and its response read. -/
theorem stepRunsDecodedCommand : Obligations.StepRunsDecodedCommand := by
  intro s k w i rest hs hk hin hw
  have hseq : (s.given k w rest).seq = none := (seq_given s k w rest).trans hs.noSeq
  have hstep : step s = afterBlock (exec i (s.given k w rest)) := by rw [step_given hs hk hin, runWord_decoded hw]
  refine ⟨s.given k w rest, sel_given s k w rest, cur_given s k w rest hw, fun j => chan_given_ne s k w rest,
    inputs_given s k w rest, hseq, trace_given s k w rest, ?_⟩
  cases ho : exec i (s.given k w rest) with
  | next t =>
    rw [ho] at hstep
    refine ⟨fun hr => hstep.trans (exec_react_of_ne ho hseq hr), fun hr => hstep.trans ?_⟩
    simpa only [afterBlock, sel_given] using exec_react_txfail ho hseq hr
  | refused r => rw [ho] at hstep; exact hstep
  | fault r => exact nomatch r

end Sys2Proof.Machine
end

section
/-! The decoder and the encoder are inverse to each other (30_encoding.md R56 to R59, R69): each format's argument is
settled by its reserved bits and its fields, and a word by its opcode and its argument. -/

namespace Sys2Proof

/-! The argument of each format (30_encoding.md R57). -/

/-- A field is a concatenation exactly when its two parts are. -/
theorem extractLsb'_eq_append_iff {w : Nat} (x : BitVec w) (start m n : Nat) (hi : BitVec m) (lo : BitVec n) :
    x.extractLsb' start (m + n) = hi ++ lo ↔ x.extractLsb' (start + n) m = hi ∧ x.extractLsb' start n = lo := by
  rw [← BitVec.extractLsb'_append_extractLsb'_eq_extractLsb' (x := x) rfl]
  refine ⟨fun h => ⟨?_, ?_⟩, fun ⟨hhi, hlo⟩ => by rw [hhi, hlo]⟩
  · rw [← BitVec.extractLsb'_append_eq_left (a := hi) (b := lo), ← h, BitVec.extractLsb'_append_eq_left]
  · rw [← BitVec.extractLsb'_append_eq_right (a := hi) (b := lo), ← h, BitVec.extractLsb'_append_eq_right]

/-- A field of one bit is that bit. -/
theorem extractLsb'_one_eq_ofBool_iff {w : Nat} (x : BitVec w) (start : Nat) (b : Bool) :
    x.extractLsb' start 1 = BitVec.ofBool b ↔ x.getLsbD start = b := by
  have hbit : x.extractLsb' start 1 = BitVec.ofBool (x.getLsbD start) := by
    apply BitVec.eq_of_getLsbD_eq
    intro j hj
    simp [show j = 0 by omega]
  rw [hbit]
  cases x.getLsbD start <;> cases b <;> decide

theorem profileOfCode_eq_iff (c : BitVec 2) (p : SpeedProfile) : profileOfCode c = p ↔ c = profileCode p :=
  ⟨fun h => by rw [← h, profileCode_profileOfCode], fun h => by rw [h, profileOfCode_profileCode]⟩

section

variable (arg : ArgWord)

theorem eq_argZ_iff : arg = 0 ↔ reservedZeroZ arg = true := beq_iff_eq.symm

theorem eq_argB_iff (d : BitVec 8) : arg = 0#24 ++ d ↔ reservedZeroB arg = true ∧ lowByte arg = d := by
  rw [reservedZeroB, beq_iff_eq, lowByte]
  simpa using extractLsb'_eq_append_iff arg 0 24 8 0 d

theorem eq_argO_iff (lo hi : BitVec 16) : arg = hi ++ lo ↔ lowHalf arg = lo ∧ highHalf arg = hi := by
  rw [lowHalf, highHalf, and_comm]
  simpa using extractLsb'_eq_append_iff arg 0 16 16 hi lo

theorem eq_argP_iff (p : SpeedProfile) :
    arg = 0#30 ++ profileCode p ↔ reservedZeroP arg = true ∧ profileField arg = p := by
  rw [reservedZeroP, beq_iff_eq, profileField, profileOfCode_eq_iff]
  simpa using extractLsb'_eq_append_iff arg 0 30 2 0 (profileCode p)

theorem eq_argF_iff (f : BitVec 16) : arg = 0#16 ++ f ↔ reservedZeroF arg = true ∧ lowHalf arg = f := by
  rw [reservedZeroF, beq_iff_eq, lowHalf]
  simpa using extractLsb'_eq_append_iff arg 0 16 16 0 f

theorem eq_argV_iff (v : BitVec 16) (t : Bool) :
    arg = 0#15 ++ BitVec.ofBool t ++ v ↔ reservedZeroV arg = true ∧ lowHalf arg = v ∧ arg.getLsbD 16 = t := by
  have hlow : arg = 0#15 ++ BitVec.ofBool t ++ v ↔
      arg.extractLsb' 16 16 = 0#15 ++ BitVec.ofBool t ∧ lowHalf arg = v := by
    rw [lowHalf]
    simpa using extractLsb'_eq_append_iff arg 0 16 16 (0#15 ++ BitVec.ofBool t) v
  have hhigh := extractLsb'_eq_append_iff arg 16 15 1 0#15 (BitVec.ofBool t)
  rw [hlow, hhigh, extractLsb'_one_eq_ofBool_iff, reservedZeroV, beq_iff_eq]
  tauto

theorem eq_argI_iff (p : SpeedProfile) (o c : Bool) :
    arg = 0#22 ++ BitVec.ofBool c ++ BitVec.ofBool o ++ 0#6 ++ profileCode p ↔
      reservedZeroI arg = true ∧ profileField arg = p ∧ arg.getLsbD 8 = o ∧ arg.getLsbD 9 = c := by
  have hp : arg = 0#22 ++ BitVec.ofBool c ++ BitVec.ofBool o ++ 0#6 ++ profileCode p ↔
      arg.extractLsb' 2 30 = 0#22 ++ BitVec.ofBool c ++ BitVec.ofBool o ++ 0#6 ∧ profileField arg = p := by
    rw [profileField, profileOfCode_eq_iff]
    simpa using extractLsb'_eq_append_iff arg 0 30 2 (0#22 ++ BitVec.ofBool c ++ BitVec.ofBool o ++ 0#6) (profileCode p)
  have hlow := extractLsb'_eq_append_iff arg 2 24 6 (0#22 ++ BitVec.ofBool c ++ BitVec.ofBool o) 0#6
  have ho := extractLsb'_eq_append_iff arg 8 23 1 (0#22 ++ BitVec.ofBool c) (BitVec.ofBool o)
  have hc := extractLsb'_eq_append_iff arg 9 22 1 0#22 (BitVec.ofBool c)
  rw [hp, hlow, ho, hc, extractLsb'_one_eq_ofBool_iff, extractLsb'_one_eq_ofBool_iff, reservedZeroI, Bool.and_eq_true,
    beq_iff_eq, beq_iff_eq]
  tauto

end

/-! The decoder in terms of the fields. -/

/-- The argument has the reserved bits of the command's format zero and its operands in their fields. -/
def Instr.ReadFrom (arg : ArgWord) : Instr → Prop
  | .nop | .rst | .send => reservedZeroZ arg = true
  | .setclk hz => arg = hz
  | .setdiv d => reservedZeroB arg = true ∧ lowByte arg = d
  | .setovr t0h t1h => lowHalf arg = t0h ∧ highHalf arg = t1h
  | .init p o c => reservedZeroI arg = true ∧ profileField arg = p ∧ arg.getLsbD 8 = o ∧ arg.getLsbD 9 = c
  | .cal p | .lut p | .bitper p => reservedZeroP arg = true ∧ profileField arg = p
  | .encode v t | .write v t => reservedZeroV arg = true ∧ lowHalf arg = v ∧ arg.getLsbD 16 = t
  | .build f => reservedZeroF arg = true ∧ lowHalf arg = f
  | .rd r => reservedZeroB arg = true ∧ lowByte arg = r

/-- What the decoder reads of an argument is what the encoder puts there. -/
theorem eq_argOf_iff (arg : ArgWord) (i : Instr) : arg = argOf i ↔ i.ReadFrom arg := by
  cases i with
  | nop | rst | send => exact eq_argZ_iff arg
  | setclk hz => exact Iff.rfl
  | setdiv d => exact eq_argB_iff arg d
  | setovr t0h t1h => exact eq_argO_iff arg t0h t1h
  | init p o c => exact eq_argI_iff arg p o c
  | cal p | lut p | bitper p => exact eq_argP_iff arg p
  | encode v t | write v t => exact eq_argV_iff arg v t
  | build f => exact eq_argF_iff arg f
  | rd r => exact eq_argB_iff arg r

/-- A word is the word of a command exactly when its opcode is the command's and its argument is read as the command's. -/
theorem encode_eq_iff {i : Instr} {w : CommandWord} :
    encode i = w ↔ opField w = opcodeOf i ∧ i.ReadFrom (argField w) := by
  rw [← eq_argOf_iff]
  constructor
  · rintro rfl
    exact ⟨opField_encode i, argField_encode i⟩
  · rintro ⟨ho, ha⟩
    exact word_ext ((opField_encode i).trans ho.symm) ((argField_encode i).trans ha.symm)

/-- A word whose argument is read as a command's under the command's opcode is decoded to it: the opcode selects the
command's arm of the decoder, which checks the reserved bits (but for `setclk` and `setovr`, which have none). -/
theorem decode_of_readFrom {i : Instr} {w : CommandWord} (ho : opField w = opcodeOf i)
    (ha : i.ReadFrom (argField w)) : decode w = .ok i := by
  unfold decode
  generalize argField w = arg at ha ⊢
  rw [ho]
  cases i
  case setclk hz => cases ha; rfl
  case setovr t0h t1h => obtain ⟨rfl, rfl⟩ := ha; rfl
  all_goals
    refine (ifReservedZero_eq_ok _ _ _).mpr ?_
    simpa [Instr.ReadFrom] using ha

/-- A decoded command's operands stand in their fields, arm by arm of the decoder: `setclk` (the third) and `setovr` (the
fifth) check no reserved bits, and the last one decodes nothing. -/
theorem readFrom_of_decode {i : Instr} {w : CommandWord} (h : decode w = .ok i) :
    opField w = opcodeOf i ∧ i.ReadFrom (argField w) := by
  unfold decode at h
  generalize argField w = arg at h ⊢
  dsimp only at h
  split at h
  case h_15 => cases h
  case h_3 ho =>
    cases h
    exact ⟨BitVec.eq_of_toNat_eq ho, rfl⟩
  case h_5 ho =>
    cases h
    exact ⟨BitVec.eq_of_toNat_eq ho, rfl, rfl⟩
  all_goals
    rename_i ho
    obtain ⟨hz, rfl⟩ := (ifReservedZero_eq_ok _ _ _).mp h
    refine ⟨BitVec.eq_of_toNat_eq ho, ?_⟩
    simp [Instr.ReadFrom, hz]

/-- The words decoded to a command are the words of the commands. -/
theorem decode_eq_ok_iff {w : CommandWord} {i : Instr} : decode w = .ok i ↔ encode i = w := by
  rw [encode_eq_iff]
  exact ⟨readFrom_of_decode, fun ⟨ho, ha⟩ => decode_of_readFrom ho ha⟩

/-- Settles O2: the decoder reads the opcode and the fields that the encoder wrote. -/
theorem decodeOfEncode : Obligations.DecodeOfEncode := fun _ => decode_eq_ok_iff.mpr rfl

/-- Settles O3: a word is nothing but the opcode, the fields and the reserved zeros that were decoded. -/
theorem encodeOfDecode : Obligations.EncodeOfDecode := fun _ _ => decode_eq_ok_iff.mp

/-- Settles O1: the decoder evaluated at each of the words. -/
theorem workedExampleWordsDecode : Obligations.WorkedExampleWordsDecode := by
  unfold Obligations.WorkedExampleWordsDecode
  decide

end Sys2Proof
end

section
/-! The opcode map and the decoder (30_encoding.md R58, R59, R69). -/

namespace Sys2Proof

/-! Which words select a row. -/

/-- A field that a mask covers is zero when the masked word is. -/
theorem extractLsb'_eq_zero_of_and_eq_zero {w : Nat} {x m : BitVec w} {start len : Nat} (h : x &&& m = 0)
    (hm : m.extractLsb' start len = BitVec.allOnes len) : x.extractLsb' start len = 0 := by
  have hand : x.extractLsb' start len &&& m.extractLsb' start len = 0 := by
    rw [← BitVec.extractLsb'_and, h]; simp
  rwa [hm, BitVec.and_allOnes] at hand

/-- Every row compares the whole opcode, and asks for zeros only in the argument. -/
theorem opcodeMap_masks : ∀ r ∈ opcodeMap, opField r.mask = BitVec.allOnes 8 ∧ argField r.pattern = 0 := by decide

theorem selects_row_iff {r : OpcodeRow} (hr : r ∈ opcodeMap) (w : CommandWord) :
    r.selects w = true ↔ opField w = opField r.pattern ∧ argField w &&& argField r.mask = 0 := by
  obtain ⟨hmask, hpattern⟩ := opcodeMap_masks r hr
  rw [selects_iff, hmask, hpattern, BitVec.and_allOnes]

/-- Every word that selects a row is the word of a command. -/
theorem exists_encode_of_selects {r : OpcodeRow} (hr : r ∈ opcodeMap) {w : CommandWord} (h : r.selects w = true) :
    ∃ i, encode i = w := by
  obtain ⟨ho, ha⟩ := (selects_row_iff hr w).mp h
  simp only [encode_eq_iff]
  generalize argField w = arg at ha ⊢
  have hzero : ∀ start len, (argField r.mask).extractLsb' start len = BitVec.allOnes len →
      (arg.extractLsb' start len == 0) = true :=
    fun _ _ hm => beq_iff_eq.mpr (extractLsb'_eq_zero_of_and_eq_zero ha hm)
  have hwhole : argField r.mask = BitVec.allOnes 32 → reservedZeroZ arg = true := fun hm => by
    rw [hm, BitVec.and_allOnes] at ha
    exact beq_iff_eq.mpr ha
  simp only [opcodeMap, List.cons_append, List.nil_append, List.mem_cons, List.not_mem_nil, or_false] at hr
  rcases hr with rfl | rfl | rfl | rfl | rfl | rfl | rfl | rfl | rfl | rfl | rfl | rfl | rfl | rfl
  · exact ⟨.nop, ho, hwhole (by decide)⟩
  · exact ⟨.rst, ho, hwhole (by decide)⟩
  · exact ⟨.setclk arg, ho, rfl⟩
  · exact ⟨.setdiv (lowByte arg), ho, hzero 8 24 (by decide), rfl⟩
  · exact ⟨.setovr (lowHalf arg) (highHalf arg), ho, rfl, rfl⟩
  · exact ⟨.init (profileField arg) (arg.getLsbD 8) (arg.getLsbD 9), ho,
      Bool.and_eq_true_iff.mpr ⟨hzero 2 6 (by decide), hzero 10 22 (by decide)⟩, rfl, rfl, rfl⟩
  · exact ⟨.cal (profileField arg), ho, hzero 2 30 (by decide), rfl⟩
  · exact ⟨.lut (profileField arg), ho, hzero 2 30 (by decide), rfl⟩
  · exact ⟨.bitper (profileField arg), ho, hzero 2 30 (by decide), rfl⟩
  · exact ⟨.encode (lowHalf arg) (arg.getLsbD 16), ho, hzero 17 15 (by decide), rfl, rfl⟩
  · exact ⟨.build (lowHalf arg), ho, hzero 16 16 (by decide), rfl⟩
  · exact ⟨.send, ho, hwhole (by decide)⟩
  · exact ⟨.write (lowHalf arg) (arg.getLsbD 16), ho, hzero 17 15 (by decide), rfl, rfl⟩
  · exact ⟨.rd (lowByte arg), ho, hzero 8 24 (by decide), rfl⟩

open Laws in
/-- The word of every command selects the command's own row. -/
theorem encodeSelectsRow (i : Instr) : EncodeSelectsRow.Statement i := by
  cases i with
  | nop => exact EncodeSelectsRow.nop
  | rst => exact EncodeSelectsRow.rst
  | setclk hz => exact EncodeSelectsRow.setclk hz
  | setdiv d => exact EncodeSelectsRow.setdiv d
  | setovr t0h t1h => exact EncodeSelectsRow.setovr t0h t1h
  | init p o c => exact EncodeSelectsRow.init p o c
  | cal p => exact EncodeSelectsRow.cal p
  | lut p => exact EncodeSelectsRow.lut p
  | bitper p => exact EncodeSelectsRow.bitper p
  | encode v t => exact EncodeSelectsRow.encode v t
  | build f => exact EncodeSelectsRow.build f
  | send => exact EncodeSelectsRow.send
  | write v t => exact EncodeSelectsRow.write v t
  | rd r => exact EncodeSelectsRow.rd r

/-- The legal words are the words that are decoded to a command. -/
theorem wellFormedWord_iff {w : CommandWord} : wellFormedWord w = true ↔ ∃ i, decode w = .ok i := by
  simp only [wellFormedWord, List.any_eq_true, decode_eq_ok_iff]
  constructor
  · rintro ⟨r, hr, hw⟩
    exact exists_encode_of_selects hr hw
  · rintro ⟨i, rfl⟩
    obtain ⟨r, hr, hw⟩ := encodeSelectsRow i
    exact ⟨r, List.mem_of_getElem? hr, hw⟩

/-! No word selects two rows. -/

theorem OpcodeRow.not_selects_of_disjoint {r q : OpcodeRow} (h : r.disjoint q = true) {w : CommandWord}
    (hr : r.selects w = true) : q.selects w ≠ true := by
  intro hq
  simp only [OpcodeRow.disjoint, OpcodeRow.selects, bne_iff_ne, beq_iff_eq] at h hr hq
  apply h
  rw [← hr, ← hq]
  apply BitVec.eq_of_getLsbD_eq
  intro j _
  rw [BitVec.ofNat_eq_ofNat, BitVec.getLsbD_zero]
  simp only [BitVec.getLsbD_and, BitVec.getLsbD_xor]
  cases w.getLsbD j <;> cases r.mask.getLsbD j <;> cases q.mask.getLsbD j <;> rfl

theorem opcodeMap_disjoint : opcodeMap.Pairwise fun r q => r.disjoint q = true := by decide

/-- Of two rows selected by one word, the first would not be disjoint from the second. -/
theorem length_selected_le_one (w : CommandWord) : (opcodeMap.filter fun r => r.selects w).length ≤ 1 := by
  have hpair : (opcodeMap.filter fun r => r.selects w).Pairwise fun r q => r.disjoint q = true :=
    opcodeMap_disjoint.filter _
  have hmem : ∀ r ∈ opcodeMap.filter fun r => r.selects w, r.selects w = true := fun r hr => (List.mem_filter.mp hr).2
  generalize opcodeMap.filter (fun r => r.selects w) = l at hpair hmem
  match l with
  | [] => exact Nat.zero_le 1
  | [_] => exact Nat.le_refl 1
  | r :: q :: _ =>
    have hdis : r.disjoint q = true := List.rel_of_pairwise_cons hpair (by simp)
    exact absurd (hmem q (by simp)) (OpcodeRow.not_selects_of_disjoint hdis (hmem r (by simp)))

/-! Rejection. -/

/-- Each defined opcode is accepted or rejected for a reserved bit; only the decoder's last arm, which excludes them all,
rejects the opcode. -/
theorem decode_eq_reservedOpcode_iff (w : CommandWord) :
    decode w = .error .reservedOpcode ↔ 0x0D < (opField w).toNat := by
  unfold decode
  dsimp only
  split
  case h_15 =>
    refine iff_of_true rfl ?_
    simp only [imp_false] at *
    omega
  all_goals
    rename_i ho
    simp [ho]

/-- Settles O4: legal words, disjoint rows and rejection, each by its own lemma. -/
theorem decodeAcceptsExactlyTheOpcodeMap : Obligations.DecodeAcceptsExactlyTheOpcodeMap := fun w =>
  ⟨wellFormedWord_iff.symm, length_selected_le_one w, decode_eq_reservedOpcode_iff w⟩

end Sys2Proof
end

section
/-! The words of the assembler's lines (30_encoding.md R66): in range, a line's opcode and argument are its command's. -/

namespace Sys2Proof

theorem toNat_encode (i : Instr) : (encode i).toNat = (opcodeOf i).toNat * 4294967296 + (argOf i).toNat :=
  Machine.toNat_append_eq_add (opcodeOf i) (argOf i)

theorem regNameIndex_lt (r : RegName) : regNameIndex r < 256 := by
  cases r with
  | pt i => simp only [regNameIndex]; omega
  | _ => decide

/-- An operand in range below reserved zeros is itself. -/
theorem toNat_zero_append_ofNat {m n x : Nat} (h : x < 2 ^ n) : (0#m ++ BitVec.ofNat n x).toNat = x := by
  rw [Machine.toNat_append_eq_add, BitVec.toNat_zero, Nat.zero_mul, Nat.zero_add, BitVec.toNat_ofNat, Nat.mod_eq_of_lt h]

theorem toNat_profileArg {p : Nat} (h : p ≤ 3) :
    BitVec.toNat (w := 32) (0#30 ++ profileCode (profileOfCode (BitVec.ofNat 2 p))) = p := by
  rw [profileCode_profileOfCode]
  exact toNat_zero_append_ofNat (m := 30) (n := 2) (by omega)

theorem toNat_byteArg {x : Nat} (h : x < 256) : BitVec.toNat (w := 32) (0#24 ++ BitVec.ofNat 8 x) = x :=
  toNat_zero_append_ofNat (m := 24) h

theorem toNat_valueArg {v t : Nat} (hv : v ≤ 65535) (ht : t ≤ 1) :
    BitVec.toNat (w := 32) (0#15 ++ BitVec.ofBool (t == 1) ++ BitVec.ofNat 16 v) = t * 65536 + v := by
  refine (Machine.toNat_append_eq_add (0#15 ++ BitVec.ofBool (t == 1)) (BitVec.ofNat 16 v)).trans ?_
  rw [Machine.toNat_append_eq_add, BitVec.toNat_ofBool]
  interval_cases t <;> simp <;> omega

theorem toNat_initArg {p : Nat} (hp : p ≤ 3) (o c : Bool) :
    BitVec.toNat (w := 32) (0#22 ++ BitVec.ofBool c ++ BitVec.ofBool o ++ 0#6 ++
      profileCode (profileOfCode (BitVec.ofNat 2 p))) = (if o then 0x100 else 0) + (if c then 0x200 else 0) + p := by
  rw [profileCode_profileOfCode]
  refine (Machine.toNat_append_eq_add (0#22 ++ BitVec.ofBool c ++ BitVec.ofBool o ++ 0#6) (BitVec.ofNat 2 p)).trans ?_
  simp only [Machine.toNat_append_eq_add, BitVec.toNat_ofBool, BitVec.toNat_ofNat]
  cases o <;> cases c <;> simp <;> omega

theorem Asm.toNat_opcodeOf_instr (a : Asm) : (opcodeOf a.instr).toNat = a.opAndArg.1 := by cases a <;> rfl

theorem Asm.toNat_argOf_instr {a : Asm} (h : a.wellFormed = true) : (argOf a.instr).toNat = a.opAndArg.2 := by
  cases a <;> simp only [Asm.wellFormed, Bool.and_eq_true, decide_eq_true_eq] at h
  case nop | rst | send => rfl
  case setclk hz => exact Nat.mod_eq_of_lt h
  case setdiv d => exact toNat_byteArg (by omega)
  case setovr t0h t1h =>
    refine (Machine.toNat_append_eq_add (BitVec.ofNat 16 t1h) (BitVec.ofNat 16 t0h)).trans ?_
    simp only [Asm.opAndArg, BitVec.toNat_ofNat]
    omega
  case init p ovr clk => exact toNat_initArg h ovr clk
  case cal p | lut p | bitper p => exact toNat_profileArg h
  case encode v t | write v t => exact toNat_valueArg h.1 h.2
  case build f => exact toNat_zero_append_ofNat (m := 16) (n := 16) (by omega)
  case rd r => exact toNat_byteArg (by omega)
  case rdNamed r => exact toNat_byteArg (regNameIndex_lt r)

theorem Asm.word_eq_encode {a : Asm} (h : a.wellFormed = true) : a.word = Sys2Proof.encode a.instr := by
  rw [Asm.word, ← Asm.toNat_opcodeOf_instr, ← Asm.toNat_argOf_instr h, ← toNat_encode, BitVec.ofNat_toNat, BitVec.setWidth_eq]

/-- Settles O5: a line's word is its command's word, which the decoder reads back. -/
theorem assemblerFormsEncode : Obligations.AssemblerFormsEncode := fun a h => by
  rw [Asm.word_eq_encode h]
  exact ⟨rfl, decodeOfEncode _⟩

end Sys2Proof
end

section
/-! Refused commands and illegal words (60_exceptions.md R166, R167, R172). -/

namespace Sys2Proof.Machine

open Sys2Proof

/-- Settles O39: of the ends of a command, only `declined` has status ILLREG or ILLSTATE, and none has ILLOP. -/
theorem refusalsChangeNothing : Obligations.RefusalsChangeNothing := by
  intro i s t r h hr
  cases exec_commandEnds h with
  | completed h =>
    cases h.ended.response.symm.trans hr
    exact ⟨fun hst => absurd rfl hst, by simp, by simp⟩
  | declined hst h =>
    cases h.ended.response.symm.trans hr
    exact ⟨fun _ => rfl, by rcases hst with rfl | rfl <;> simp, fun _ => h⟩
  | @sent _ a _ _ h =>
    cases h.ended.response.symm.trans hr
    cases a <;> simp
  | waiting _ h => cases h.waiting.response.symm.trans hr

/-- An illegal word is answered with ILLOP (60_exceptions.md R167). -/
theorem runWord_illegal {w : CommandWord} (hw : wellFormedWord w = false) (s : State) :
    s.runWord w = .next (s.raise .illop) := by
  cases hd : decode w with
  | ok i => rw [wellFormedWord_iff.mpr ⟨i, hd⟩] at hw; cases hw
  | error e => simp only [State.runWord, hd]

theorem block_given (s : State) (k : ChannelId) (w : CommandWord) (rest : List Input) :
    (s.given k w rest).block = { (s.chan k).block with busy := true } := by
  rw [State.given, block_accept, (dStateOnly_noteWord _ k w).block, State.chan_with_inputs]

/-- The host's reading of ILLOP outside a driver sequence. -/
theorem react_raise_illop {s : State} (h : s.seq = none) : (s.raise .illop).react = .next (s.raise .illop) := by
  have hq := (quiet_raise s .illop).ended
  rw [react_free (hq.elsewhere.seq.trans h) hq.response, noteStatus_of_ne Status.noConfusion]

/-- Settles O45: the accepted word is answered at once (`quiet_raise`), which leaves the idle block as it was. -/
theorem illegalWordAnswersIllop : Obligations.IllegalWordAnswersIllop := by
  intro s k w rest hs hk hflight hin hw
  have hquiet := quiet_raise (s.given k w rest) .illop
  have helse := hquiet.ended.elsewhere
  have hsel : (s.given k w rest).sel = k := sel_given s k w rest
  have hstep : step s = .next ((s.given k w rest).raise .illop) := by
    rw [step_given hs hk hin, runWord_illegal hw]
    exact react_raise_illop ((seq_given s k w rest).trans hs.noSeq)
  have hcur : ((s.given k w rest).raise .illop).chan k = ((s.given k w rest).raise .illop).cur :=
    cur_of_sel (helse.sel.trans hsel)
  refine ⟨_, hstep, ?_, by rw [hcur, hquiet.ended.response], ?_, ?_, ?_⟩
  · calc (((s.given k w rest).raise .illop).chan k).block
        = (s.given k w rest).block.idle := by rw [hcur]; exact hquiet.block
      _ = (s.chan k).block.idle := by rw [block_given]; rfl
      _ = (s.chan k).block := Block.idle_of_not_busy _ hk hflight
  · rw [hquiet.ended.trace, trace_given, hsel, List.append_nil]
  · rw [helse.inputs, inputs_given]
  · intro j hj
    rw [helse.others j (by rwa [hsel]), chan_given_ne s k w rest hj]

end Sys2Proof.Machine
end

section
/-! The frame encoder (40_frame_codec.md): the payload bit by bit and as a number, the frame as payload over checksum, the
decoding of a frame, and the command ENCODE. -/

namespace Sys2Proof.Machine

open Sys2Proof

/-! The payload and the checksum (R72). -/

/-- The masked operand has room for the telemetry bit within twelve bits. -/
theorem maskedOperand_shiftLeft_lt (v : ThrottleOperand) : (v.toNat &&& 0x7FF) <<< 1 < 2 ^ 12 := by
  have hmask : v.toNat &&& 0x7FF < 2 ^ 11 := Nat.and_lt_two_pow _ (by decide)
  rw [Nat.shiftLeft_eq]
  omega

theorem toNat_framePayload (v : ThrottleOperand) (t : Bool) :
    (framePayload v t).toNat = (v.toNat &&& 0x7FF) <<< 1 ||| t.toNat := by
  have hshift : (v.toNat &&& 0x7FF) <<< 1 < 65536 := (maskedOperand_shiftLeft_lt v).trans (by decide)
  have htelemetry : t.toNat < 65536 := t.toNat_lt.trans (by decide)
  simp [framePayload, Nat.mod_eq_of_lt hshift, Nat.mod_eq_of_lt htelemetry]

theorem toNat_framePayload_lt (v : ThrottleOperand) (t : Bool) : (framePayload v t).toNat < 2 ^ 12 := by
  rw [toNat_framePayload]
  exact Nat.or_lt_two_pow (maskedOperand_shiftLeft_lt v) (t.toNat_lt.trans (by decide))

theorem toNat_frameChecksum (p : BitVec 16) :
    (frameChecksum p).toNat = (p.toNat ^^^ p.toNat >>> 4 ^^^ p.toNat >>> 8) &&& 0xF := by
  simp [frameChecksum]

/-- Shifting the payload up by the checksum's nibble loses no bit. -/
theorem toNat_createFrame (v : ThrottleOperand) (t : Bool) :
    (createFrame v t).toNat = (framePayload v t).toNat <<< 4 ||| (frameChecksum (framePayload v t)).toNat := by
  have hshift : (framePayload v t).toNat <<< 4 < 2 ^ 16 := by
    have := toNat_framePayload_lt v t
    rw [Nat.shiftLeft_eq]
    omega
  rw [createFrame, BitVec.toNat_or, BitVec.toNat_shiftLeft, Nat.mod_eq_of_lt hshift]

/-- Settles O7: payload, checksum and frame, each as a number. -/
theorem createFrameFormula : Obligations.CreateFrameFormula := by
  refine ⟨fun v t => ?_, by decide⟩
  rw [toNat_createFrame, toNat_frameChecksum, toNat_framePayload]

/-! Decoding a frame (R79). -/

/-- The mask keeps the low eleven bits of the operand. -/
theorem getLsbD_and_valueMask (v : ThrottleOperand) (j : Nat) :
    (v &&& 0x7FF).getLsbD j = (decide (j < 11) && v.getLsbD j) := by
  have hmod : (v &&& 0x7FF).toNat = v.toNat % 2 ^ 11 := Nat.and_two_pow_sub_one_eq_mod v.toNat 11
  rw [← BitVec.testBit_toNat, hmod, Nat.testBit_mod_two_pow, BitVec.testBit_toNat]

theorem getLsbD_framePayload_zero (v : ThrottleOperand) (t : Bool) : (framePayload v t).getLsbD 0 = t := by
  simp [framePayload]

theorem getLsbD_framePayload_succ (v : ThrottleOperand) (t : Bool) (j : Nat) :
    (framePayload v t).getLsbD (j + 1) = (decide (j < 11) && v.getLsbD j) := by
  rw [framePayload, BitVec.getLsbD_or, BitVec.getLsbD_shiftLeft, Nat.add_sub_cancel, getLsbD_and_valueMask]
  by_cases hj : j < 11
  · simp [hj, show j + 1 < 16 by omega]
  · simp [hj]

theorem frameValue_createFrame (v : ThrottleOperand) (t : Bool) : frameValue (createFrame v t) = v.setWidth 11 := by
  apply BitVec.eq_of_getLsbD_eq
  intro j hj
  calc (frameValue (createFrame v t)).getLsbD j
      = (createFrame v t).getLsbD (4 + (j + 1)) := by
        rw [frameValue, BitVec.getLsbD_extractLsb', show 5 + j = 4 + (j + 1) by omega]
        simp [hj]
    _ = v.getLsbD j := by
        rw [getLsbD_createFrame_high v t (by omega), getLsbD_framePayload_succ]
        simp [hj]
    _ = (v.setWidth 11).getLsbD j := by simp [hj]

theorem frameTelemetry_createFrame (v : ThrottleOperand) (t : Bool) : frameTelemetry (createFrame v t) = t :=
  (getLsbD_createFrame_high v t (j := 0) (by decide)).trans (getLsbD_framePayload_zero v t)

/-- The nibbles of a word XOR to zero exactly when its checksum is the one of its payload (R73). -/
theorem validFrame_iff_frameCheck (f : Frame) :
    validFrame f = true ↔ (frameCheck f).setWidth 16 = frameChecksum (f >>> 4) := by
  have hcheck (j : Nat) (hj : j < 4) : ((frameCheck f).setWidth 16).getLsbD j = f.getLsbD j := by
    simp [frameCheck, hj, show j < 16 by omega]
  have hsum (j : Nat) (hj : j < 4) : (frameChecksum (f >>> 4)).getLsbD j =
      (f.getLsbD (4 + j) ^^ f.getLsbD (8 + j) ^^ f.getLsbD (12 + j)) := by
    simp [frameChecksum, getLsbD_nibbleMask, hj]
  rw [validFrame_iff_columns]
  constructor
  · intro h
    apply BitVec.eq_of_getLsbD_eq
    intro j _
    by_cases hj : j < 4
    · rw [hcheck j hj, hsum j hj, h j hj]
    · simp [frameCheck, frameChecksum, getLsbD_nibbleMask, hj]
  · intro h j hj
    rw [← hcheck j hj, ← hsum j hj, h]

/-- Settles O8: the stored checksum is the recomputed one because a created frame's nibbles XOR to zero. -/
theorem frameRoundTrip : Obligations.FrameRoundTrip := fun v t =>
  ⟨frameValue_createFrame v t, frameTelemetry_createFrame v t,
    (validFrame_iff_frameCheck _).mp (validFrame_createFrame v t)⟩

/-! Truncation (R74). -/

@[simp] theorem createFrame_mask (v : ThrottleOperand) (t : Bool) : createFrame (v &&& 0x7FF) t = createFrame v t := by
  have hpayload : framePayload (v &&& 0x7FF) t = framePayload v t := by
    rw [framePayload, framePayload, BitVec.and_assoc, BitVec.and_self]
  rw [createFrame, createFrame, hpayload]

/-- Settles O9: the operand reaches ENCODE and WRITE only through the created frame. -/
theorem frameTruncation : Obligations.FrameTruncation := by
  refine ⟨fun v t => ⟨(createFrame_mask v t).symm, ?_, fun s => ⟨?_, ?_⟩⟩, by decide⟩
  · rw [frameValue_createFrame, BitVec.toNat_setWidth]
    exact (Nat.and_two_pow_sub_one_eq_mod v.toNat 11).symm
  · simp only [exec, execEncode, createFrame_mask]
  · simp only [exec, execWrite, createFrame_mask]

/-! The created frames (R73). -/

/-- The value and telemetry fields of a word make up its payload. -/
theorem framePayload_fields (f : Frame) : framePayload ((frameValue f).setWidth 16) (frameTelemetry f) = f >>> 4 := by
  apply BitVec.eq_of_getLsbD_eq
  intro j _
  cases j with
  | zero => rw [getLsbD_framePayload_zero]; simp [frameTelemetry]
  | succ i =>
    rw [getLsbD_framePayload_succ, BitVec.getLsbD_ushiftRight, show 4 + (i + 1) = 5 + i by omega]
    by_cases hi : i < 11
    · simp [frameValue, hi, show i < 16 by omega]
    · simp [hi, show 16 ≤ 5 + i by omega]

/-- A word is its payload over its checksum. -/
theorem payload_or_frameCheck (f : Frame) : (f >>> 4) <<< 4 ||| (frameCheck f).setWidth 16 = f := by
  apply BitVec.eq_of_getLsbD_eq
  intro j hj
  by_cases h4 : j < 4
  · simp [frameCheck, h4, hj]
  · simp [frameCheck, h4, hj, show 4 + (j - 4) = j by omega]

/-- Settles O10: a word whose nibbles XOR to zero is created from its own value and telemetry fields. -/
theorem validFramesAreTheCreatedOnes : Obligations.ValidFramesAreTheCreatedOnes := by
  refine fun f => ⟨fun h => ⟨(frameValue f).setWidth 16, frameTelemetry f, ?_⟩, ?_⟩
  · rw [createFrame, framePayload_fields, ← (validFrame_iff_frameCheck f).mp h, payload_or_frameCheck]
  · rintro ⟨v, t, rfl⟩
    exact validFrame_createFrame v t

/-! ENCODE (R78, R80). -/

/-- A word that no command can be read from, by its opcode or by its reserved bits, is answered with ILLOP (30_encoding.md
R59). -/
theorem answersIllop_of_not_readFrom {w : CommandWord}
    (h : ∀ i : Instr, opField w = opcodeOf i → ¬ i.ReadFrom (argField w)) (s : State) : AnswersIllop s w := by
  have hillegal : wellFormedWord w = false := by
    rw [Bool.eq_false_iff, ne_eq, wellFormedWord_iff]
    rintro ⟨i, hi⟩
    obtain ⟨hop, hread⟩ := readFrom_of_decode hi
    exact h i hop hread
  exact ⟨_, runWord_illegal hillegal s, quiet_raise s .illop⟩

/-- `ENCODE` is the command of its opcode (30_encoding.md R58). -/
theorem eq_encode_of_opcodeOf {i : Instr} (h : opcodeOf i = 0x09) : ∃ v t, i = .encode v t := by
  cases i with
  | encode v t => exact ⟨v, t, rfl⟩
  | _ => simp [opcodeOf] at h

/-- Settles O11: ENCODE is one write of FRAME and a response, and no command of its opcode admits a reserved bit. -/
theorem encodeLatchesFrame : Obligations.EncodeLatchesFrame := by
  refine ⟨fun v t s => ⟨_, rfl, quiet_updBlock_respond s _ .ok _⟩, fun w hop hres => ?_, fun w s hop hres => ?_, by decide⟩
  · exact decode_of_readFrom hop ⟨beq_iff_eq.mpr hres, rfl, rfl⟩
  · refine answersIllop_of_not_readFrom (fun i hi hread => ?_) s
    obtain ⟨v, t, rfl⟩ := eq_encode_of_opcodeOf (hi.symm.trans hop)
    obtain ⟨hzero, _, _⟩ := hread
    exact hres (beq_iff_eq.mp hzero)

end Sys2Proof.Machine
end

section
/-! The tick calibrator (41_tick_calibrator.md): the tick count as a rounding, the counts of the clock path, the timing
resolution, and the commands SETCLK, SETDIV, SETOVR, CAL, LUT, BITPER and INIT. -/

namespace Sys2Proof.Machine

open Sys2Proof

/-! The tick count (R92, R107). -/

/-- Settles O15: half a divisor is added before the division, whose remainder is less than the divisor. -/
theorem tickCountIsNearest : Obligations.TickCountIsNearest := by
  intro h hz d hd
  have hle := Nat.div_mul_le_self (h * hz + 1000000000 * d) (2000000000 * d)
  have hlt := Nat.lt_div_mul_add (a := h * hz + 1000000000 * d) (b := 2000000000 * d) (by omega)
  rw [← tickCount] at hle hlt
  exact ⟨hle, by omega⟩

/-! The clock path (R91 to R94). -/

/-- A count of the clock path fits a tick register. -/
theorem toNat_ofNat_tickCount {h : Nat} (hh : h ≤ 10000) (hz : ClockHz) {d : ClockDiv} (hd : d ≠ 0) :
    (BitVec.ofNat 16 (tickCount h hz.toNat d.toNat)).toNat = tickCount h hz.toNat d.toNat := by
  have hdiv : 0 < d.toNat := Nat.pos_of_ne_zero fun h => hd (BitVec.eq_of_toNat_eq h)
  have hmax := tickCount_le hh hz.isLt hdiv
  exact Nat.mod_eq_of_lt (by omega)

theorem toNat_t0h_fromClock (p : SpeedProfile) (hz : ClockHz) {d : ClockDiv} (hd : d ≠ 0) :
    (fromClock p hz d).t0h.toNat = tickCount (zeroHighHalfNs p) hz.toNat d.toNat :=
  toNat_ofNat_tickCount ((zeroHighHalfNs_le_oneHighHalfNs p).trans (oneHighHalfNs_le p)) hz hd

theorem toNat_t1h_fromClock (p : SpeedProfile) (hz : ClockHz) {d : ClockDiv} (hd : d ≠ 0) :
    (fromClock p hz d).t1h.toNat = tickCount (oneHighHalfNs p) hz.toNat d.toNat :=
  toNat_ofNat_tickCount (oneHighHalfNs_le p) hz hd

/-- Settles O16: no count wraps, the two are ordered as their high times are, and the corner counts are computed. -/
theorem clockTicksInRange : Obligations.ClockTicksInRange := by
  refine ⟨fun p hz d _ hd => ?_, by decide⟩
  obtain ⟨hle, hmax⟩ := inRange_fromClock p hz hd
  exact ⟨toNat_t0h_fromClock p hz hd, toNat_t1h_fromClock p hz hd, hle, hmax⟩

/-- At the reference clock the clock path gives the default table (R96). -/
theorem fromClock_reference (p : SpeedProfile) : fromClock p 80000000 1 = defaultTicks p := by
  cases p <;> decide

/-! The calibration from the block's own clock (R93). -/

theorem calibrate_of_ne_zero {b : Block} (p : SpeedProfile) (hz : b.clkhz ≠ 0) (hd : b.clkdiv ≠ 0) :
    b.calibrate p = .ok (fromClock p b.clkhz b.clkdiv) := by
  rw [Block.calibrate, if_neg hz, if_neg hd]

theorem calibrate_of_clkhz_zero {b : Block} (p : SpeedProfile) (hz : b.clkhz = 0) :
    b.calibrate p = .error .clockHzZero := by
  rw [Block.calibrate, if_pos hz]

theorem calibrate_of_clkdiv_zero {b : Block} (p : SpeedProfile) (hz : b.clkhz ≠ 0) (hd : b.clkdiv = 0) :
    b.calibrate p = .error .clockDivZero := by
  rw [Block.calibrate, if_neg hz, if_pos hd]

/-! The timing resolution (R98). -/

theorem resolveTiming_override (b : Block) (p : SpeedProfile) (c : Bool) :
    b.resolveTiming p true c = .ok (b.overrideTicks, .explicit) := rfl

theorem resolveTiming_table (b : Block) (p : SpeedProfile) :
    b.resolveTiming p false false = .ok (defaultTicks p, .table) := rfl

theorem resolveTiming_clock_ok {b : Block} {p : SpeedProfile} {t : BitTicks} (h : b.calibrate p = .ok t) :
    b.resolveTiming p false true = .ok (t, .clock) :=
  congrArg (Except.map fun t => (t, TimingSource.clock)) h

theorem resolveTiming_clock_error {b : Block} {p : SpeedProfile} {r : Refusal} (h : b.calibrate p = .error r) :
    b.resolveTiming p false true = .error r :=
  congrArg (Except.map fun t => (t, TimingSource.clock)) h

/-! CAL and INIT, one equation per outcome (R103, R104). -/

theorem exec_cal_ok {s : State} {p : SpeedProfile} {t : BitTicks} (h : s.block.calibrate p = .ok t) :
    exec (.cal p) s = .next (s.respond .ok t.tpk) := by
  simp only [exec, execCal, h]

theorem exec_cal_error {s : State} {p : SpeedProfile} {r : Refusal} (h : s.block.calibrate p = .error r) :
    exec (.cal p) s = .refused r := by
  simp only [exec, execCal, h]

theorem exec_init_configured {s : State} (p : SpeedProfile) (o c : Bool) (hc : s.block.configured = true) :
    exec (.init p o c) s = .next (s.raise .illstate) := by
  simp [exec, execInit, Block.permitsInit, hc]

theorem exec_init_ok {s : State} {p : SpeedProfile} {o c : Bool} {t : BitTicks} {src : TimingSource}
    (hc : s.block.configured = false) (hr : s.block.resolveTiming p o c = .ok (t, src)) :
    exec (.init p o c) s = .next ((s.updBlock fun b => b.configure p t src).respond .ok t.tpk) := by
  simp [exec, execInit, Block.permitsInit, hc, hr]

theorem exec_init_error {s : State} {p : SpeedProfile} {o c : Bool} {r : Refusal}
    (hc : s.block.configured = false) (hr : s.block.resolveTiming p o c = .error r) :
    exec (.init p o c) s = .refused r := by
  simp [exec, execInit, Block.permitsInit, hc, hr]

/-! Words with a reserved bit set (30_encoding.md R59). -/

/-- The commands of format P have arg[31:2] reserved (30_encoding.md R57). -/
theorem answersIllop_of_reservedP {w : CommandWord} (hop : opField w = 0x06 ∨ opField w = 0x07 ∨ opField w = 0x08)
    (hres : (argField w).extractLsb' 2 30 ≠ 0) (s : State) : AnswersIllop s w := by
  refine answersIllop_of_not_readFrom (fun i hi hread => ?_) s
  rw [hi] at hop
  cases i with
  | cal p | lut p | bitper p =>
    obtain ⟨hzero, _⟩ := hread
    exact hres (beq_iff_eq.mp hzero)
  | _ => simp [opcodeOf] at hop

/-- `SETDIV` has arg[31:8] reserved (30_encoding.md R57). -/
theorem answersIllop_of_setdiv_reserved {w : CommandWord} (hop : opField w = 0x03)
    (hres : (argField w).extractLsb' 8 24 ≠ 0) (s : State) : AnswersIllop s w := by
  refine answersIllop_of_not_readFrom (fun i hi hread => ?_) s
  rw [hi] at hop
  cases i with
  | setdiv d =>
    obtain ⟨hzero, _⟩ := hread
    exact hres (beq_iff_eq.mp hzero)
  | _ => simp [opcodeOf] at hop

/-! SETCLK, SETDIV and SETOVR (R100 to R102). -/

/-- Settles O12: SETCLK is one write of CLKHZ and a response, and its operand is the whole argument. -/
theorem setclkStoresClock : Obligations.SetclkStoresClock :=
  ⟨fun _ s => ⟨_, rfl, quiet_updBlock_respond s _ .ok 0⟩,
    fun w hop => decode_of_readFrom (i := .setclk (argField w)) hop rfl, by decide⟩

/-- Settles O13: SETDIV is one write of CLKDIV and a response, and no command of its opcode admits a reserved bit. -/
theorem setdivStoresDivider : Obligations.SetdivStoresDivider :=
  ⟨fun _ s => ⟨_, rfl, quiet_updBlock_respond s _ .ok 0⟩,
    fun _ hop hres => decode_of_readFrom hop ⟨beq_iff_eq.mpr hres, rfl⟩,
    fun _ s hop hres => answersIllop_of_setdiv_reserved hop hres s, by decide⟩

/-- Settles O14: SETOVR is one write of the two override counts, which are the view of index 0x08, and a response. -/
theorem setovrStoresOverride : Obligations.SetovrStoresOverride := by
  refine ⟨fun t0h t1h s => ?_, fun w hop => decode_of_readFrom hop ⟨rfl, rfl⟩, by decide⟩
  have hquiet := quiet_updBlock_respond s (fun b => { b with ovrT0h := t0h, ovrT1h := t1h }) .ok 0
  exact ⟨_, rfl, hquiet, by rw [hquiet.block]; rfl⟩

/-! CAL, LUT and BITPER (R96, R104 to R106). -/

/-- Settles O18: the clock path gives the default table there, and CAL answers what the clock path gives. -/
theorem referenceClockGivesDefaultTable : Obligations.ReferenceClockGivesDefaultTable := by
  intro p s hz hd
  have hcal : s.block.calibrate p = .ok (defaultTicks p) := by
    rw [calibrate_of_ne_zero p (by rw [hz]; decide) (by rw [hd]; decide), hz, hd, fromClock_reference]
  exact ⟨fromClock_reference p, exec_cal_ok hcal⟩

/-- Settles O19: CAL answers the packed counts of the clock path, neither of which wraps. -/
theorem calAnswersClockTicks : Obligations.CalAnswersClockTicks := by
  refine ⟨fun p s hz hd => ?_, fun w s hop hres => answersIllop_of_reservedP (.inl hop) hres s, by decide⟩
  refine ⟨_, _, exec_cal_ok (calibrate_of_ne_zero p hz hd), quiet_respond s .ok _, ?_⟩
  rw [BitTicks.tpk, toNat_tpkWord, toNat_t0h_fromClock p _ hd, toNat_t1h_fromClock p _ hd]

/-- Settles O21: LUT is a response with the profile's row of the default table, packed. -/
theorem lutAnswersDefaultTable : Obligations.LutAnswersDefaultTable := by
  refine ⟨fun p s => ⟨_, rfl, ?_⟩, fun w s hop hres => answersIllop_of_reservedP (.inr (.inl hop)) hres s, by decide⟩
  cases p <;> exact quiet_respond s .ok _

/-- Settles O22: BITPER is a response with the profile's bit period. -/
theorem bitperAnswersBitPeriod : Obligations.BitperAnswersBitPeriod := by
  refine ⟨fun p s => ⟨_, rfl, ?_⟩, fun w s hop hres => answersIllop_of_reservedP (.inr (.inr hop)) hres s, by decide⟩
  cases p <;> exact quiet_respond s .ok _

/-- CAL and INIT on the clock path stop with the refusal of the calibration (R93). -/
theorem exec_clockPath_refused {s : State} {p : SpeedProfile} {r : Refusal} (h : s.block.calibrate p = .error r) :
    exec (.cal p) s = .refused r ∧ (s.block.configured = false → exec (.init p false true) s = .refused r) :=
  ⟨exec_cal_error h, fun hc => exec_init_error hc (resolveTiming_clock_error h)⟩

/-- Settles O20: the calibration names the zero clock first, then the zero divider. -/
theorem zeroClockRefused : Obligations.ZeroClockRefused := fun p _ =>
  ⟨fun hz => exec_clockPath_refused (calibrate_of_clkhz_zero p hz),
    fun hz hd => exec_clockPath_refused (calibrate_of_clkdiv_zero p hz hd)⟩

/-! INIT (R98, R99, R103). -/

/-- INIT on an unconfigured block whose timing is resolved to two high counts: all seven elements are written together. -/
theorem exec_init_resolved {s : State} {p : SpeedProfile} {o c : Bool} {h0 h1 : Tick} {src : TimingSource}
    (hc : s.block.configured = false) (hr : s.block.resolveTiming p o c = .ok (crossWire h0 h1, src)) :
    ∃ t, exec (.init p o c) s = .next t ∧
      Quiet s t { s.block with configured := true, profile := p, src := src, ticks := ⟨h0, h1, h1, h0⟩ } .ok (h1 ++ h0) :=
  ⟨_, exec_init_ok hc hr, quiet_updBlock_respond s (fun b => b.configure p (crossWire h0 h1) src) .ok _⟩

/-- Settles O23: each timing source gives a cross-wired table, the override whatever the clock flag. -/
theorem initResolvesTiming : Obligations.InitResolvesTiming := by
  intro p o c s hc hsource
  cases o with
  | true =>
    obtain ⟨t, ht, hq⟩ := exec_init_resolved hc (resolveTiming_override s.block p c)
    exact ⟨t, _, _, _, ht, hq, rfl⟩
  | false =>
    cases c with
    | true =>
      obtain ⟨hz, hd⟩ : s.block.clkhz ≠ 0 ∧ s.block.clkdiv ≠ 0 := by simpa using hsource
      obtain ⟨t, ht, hq⟩ := exec_init_resolved hc (resolveTiming_clock_ok (calibrate_of_ne_zero p hz hd))
      exact ⟨t, _, _, _, ht, hq, rfl⟩
    | false =>
      obtain ⟨t, ht, hq⟩ := exec_init_resolved hc (resolveTiming_table s.block p)
      exact ⟨t, _, _, _, ht, hq, rfl⟩

/-- Settles O24: INIT is refused, and by the access matrix no other command but RST writes the elements it sets. -/
theorem initOnlyOnce : Obligations.InitOnlyOnce := by
  refine ⟨fun p o c s hc => ⟨_, exec_init_configured p o c hc, quiet_raise s .illstate⟩, fun i s t hrst hc h => ?_⟩
  by_cases hi : ∃ p o c, i = .init p o c
  · obtain ⟨p, o, c, rfl⟩ := hi
    cases next_inj ((exec_init_configured p o c hc).symm.trans h)
    rw [(quiet_raise s .illstate).block]
    exact ⟨hc, rfl, rfl, rfl⟩
  · obtain ⟨hinit, _⟩ := accessMatrix i s t h hrst
    obtain ⟨hconfigured, hprofile, hsrc, hticks⟩ := hinit fun p o c he => hi ⟨p, o, c, he⟩
    exact ⟨hconfigured.trans hc, hprofile, hticks, hsrc⟩

end Sys2Proof.Machine
end

section
/-! The pulse-train sequencer (42_pulse_train_sequencer.md): the entries of a built train and how long they last, BUILD,
SEND and WRITE with their answer at hand or still to come, and the end of a command that has waited for it. -/

namespace Sys2Proof.Machine

open Sys2Proof

/-! The entries of a train (R112 to R116). -/

theorem getElem_buildTrain_data (f : Frame) (t : BitTicks) (i : Fin 16) :
    (buildTrain f t)[i.val] = bitDescriptor t (f.getLsbD (15 - i.val)) := by
  simp [buildTrain, trainEntry]

theorem getElem_buildTrain_terminator (f : Frame) (t : BitTicks) : (buildTrain f t)[16] = Descriptor.zero := by
  simp [buildTrain, trainEntry]

theorem buildTrain_eq_iff {f g : Frame} {t : BitTicks} :
    buildTrain f t = buildTrain g t ↔
      ∀ j, j < 16 → bitDescriptor t (f.getLsbD j) = bitDescriptor t (g.getLsbD j) := by
  refine ⟨fun h j hj => ?_, fun h => Vector.ext fun i hi => ?_⟩
  · have hback : 15 - (15 - j) = j := by omega
    have hentry := getElem_buildTrain_data f t ⟨15 - j, by omega⟩
    simp only [h, getElem_buildTrain_data g t ⟨15 - j, by omega⟩, hback] at hentry
    exact hentry.symm
  · rcases Nat.lt_succ_iff_lt_or_eq.mp hi with hdata | rfl
    · rw [getElem_buildTrain_data f t ⟨i, hdata⟩, getElem_buildTrain_data g t ⟨i, hdata⟩]
      exact h _ (by omega)
    · rw [getElem_buildTrain_terminator, getElem_buildTrain_terminator]

/-! The two bit patterns of a cross-wired table (R113, R118, R191). -/

theorem bitDescriptor_crossWire_injective {t0h t1h : Tick} (h : t0h ≠ t1h) :
    Function.Injective (bitDescriptor (crossWire t0h t1h)) := by
  have hne : t1h ≠ t0h := h.symm
  intro b c
  cases b <;> cases c <;> simp [bitDescriptor, crossWire, h, hne]

theorem bitDescriptor_crossWire_self (h : Tick) (b : Bool) : bitDescriptor (crossWire h h) b = ⟨h, h⟩ := by
  cases b <;> rfl

theorem duration_bitDescriptor_crossWire (t0h t1h : Tick) (b : Bool) :
    (bitDescriptor (crossWire t0h t1h) b).duration = t0h.toNat + t1h.toNat := by
  cases b
  · rfl
  · exact Nat.add_comm _ _

/-- Settles O32: the pattern at entry `15 - j` tells bit `j` of the frame when the two patterns differ. -/
theorem trainCarriesFrame : Obligations.TrainCarriesFrame := by
  refine ⟨fun f g t0h t1h hne h => ?_, fun f g h => buildTrain_eq_iff.mpr fun j _ => ?_⟩
  · exact BitVec.eq_of_getLsbD_eq fun j hj =>
      bitDescriptor_crossWire_injective hne (buildTrain_eq_iff.mp h j hj)
  · rw [bitDescriptor_crossWire_self, bitDescriptor_crossWire_self]

/-! How long a train lasts (R117, R118). -/

theorem duration_buildTrain_data (f : Frame) (t0h t1h : Tick) (i : Fin 16) :
    ((buildTrain f (crossWire t0h t1h))[i.val]).duration = t0h.toNat + t1h.toNat := by
  rw [getElem_buildTrain_data, duration_bitDescriptor_crossWire]

theorem trainDuration_eq_sum (pt : PulseTrain) : trainDuration pt = ∑ i : Fin 17, (pt[i.val]).duration := by
  rw [trainDuration, ← List.sum_ofFn]
  congr 1
  exact List.ext_getElem (by simp) fun i _ _ => by rw [List.getElem_map, List.getElem_ofFn, Vector.getElem_toList]

theorem trainDuration_buildTrain_crossWire (f : Frame) (t0h t1h : Tick) :
    trainDuration (buildTrain f (crossWire t0h t1h)) = 16 * (t0h.toNat + t1h.toNat) := by
  have hdata (i : Fin 16) :
      ((buildTrain f (crossWire t0h t1h))[i.castSucc.val]).duration = t0h.toNat + t1h.toNat :=
    duration_buildTrain_data f t0h t1h i
  have hend : ((buildTrain f (crossWire t0h t1h))[(Fin.last 16).val]).duration = 0 := by
    simp only [Fin.val_last, getElem_buildTrain_terminator]; rfl
  rw [trainDuration_eq_sum, Fin.sum_univ_castSucc, hend, Finset.sum_congr rfl fun i _ => hdata i]
  simp

/-- Settles O31: 16 entries of T0H + T1H each, and a terminator that lasts no tick. -/
theorem trainDurationIndependentOfFrame : Obligations.TrainDurationIndependentOfFrame := by
  refine ⟨duration_buildTrain_data, trainDuration_buildTrain_crossWire, fun f p => ?_⟩
  rw [defaultTicks, trainDuration_buildTrain_crossWire]
  cases p <;> rfl

/-! BUILD, SEND and WRITE when their flag permits them, one equation each (R119, R120, R125). -/

theorem exec_build_configured {s : State} (f : Frame) (hc : s.block.configured = true) :
    exec (.build f) s = .next ((s.updBlock fun b => b.loadTrain f).respond .ok 0) := by
  simp only [exec, execBuild, Block.permitsBuild, hc, if_true]

theorem exec_send_ptvalid {s : State} (hv : s.block.ptvalid = true) :
    exec .send s = .next (s.emitTrain.awaitAnswer 0) := by
  simp only [exec, execSend, Block.permitsSend, hv, if_true]

/-- The registers after WRITE has computed its frame and its train (R125). -/
def Block.loadWritten (b : Block) (v : ThrottleOperand) (t : Bool) : Block :=
  { b with frame := createFrame v t }.loadTrain (createFrame v t)

theorem exec_write_configured {s : State} (v : ThrottleOperand) (t : Bool) (hc : s.block.configured = true) :
    exec (.write v t) s =
      .next ((s.updBlock fun b => b.loadWritten v t).emitTrain.awaitAnswer ((createFrame v t).setWidth 32)) := by
  simp only [exec, execWrite, Block.permitsBuild, hc, if_true]
  rfl

/-- Settles O25: BUILD is one write of PT and PTVALID and a response. -/
theorem buildWritesTrain : Obligations.BuildWritesTrain := fun f s hc =>
  ⟨_, buildTrain f s.block.ticks, exec_build_configured f hc, quiet_updBlock_respond s (fun b => b.loadTrain f) .ok 0,
    getElem_buildTrain_data f s.block.ticks, getElem_buildTrain_terminator f s.block.ticks⟩

/-- Settles O26: SEND emits the train as it stands and takes the answer at hand. -/
theorem sendTransmitsTrain : Obligations.SendTransmitsTrain := by
  intro s a hv ha
  refine ⟨_, exec_send_ptvalid hv, ?_⟩
  have hsent := sent_emitTrain 0 a (Elsewhere.rfl' s) rfl rfl rfl ha
  cases a <;> exact hsent

/-- Settles O27: SEND emits the train as it stands and finds no answer. -/
theorem sendWaitsForAnswer : Obligations.SendWaitsForAnswer := fun s hv ha =>
  ⟨_, exec_send_ptvalid hv, sentWaiting_emitTrain 0 (Elsewhere.rfl' s) rfl rfl rfl ha⟩

/-- Settles O28: WRITE emits the train of its own frame and takes the answer at hand. -/
theorem writeTransmitsFrame : Obligations.WriteTransmitsFrame := by
  intro v b s a hc ha
  refine ⟨_, exec_write_configured v b hc, ?_⟩
  have hsent := sent_emitTrain ((createFrame v b).setWidth 32) a (elsewhere_updBlock s fun r => r.loadWritten v b)
    (State.block_updBlock s _) (by simp) (by simp) ha
  cases a <;> exact hsent

/-- Settles O29: WRITE emits the train of its own frame and finds no answer. -/
theorem writeWaitsForAnswer : Obligations.WriteWaitsForAnswer := fun v b s hc ha =>
  ⟨_, exec_write_configured v b hc, sentWaiting_emitTrain _ (elsewhere_updBlock s fun r => r.loadWritten v b)
    (State.block_updBlock s _) (by simp) (by simp) ha⟩

/-! WRITE and its three parts (R125). -/

/-- A command that emits nothing leaves the answer to the next train at hand. -/
theorem Quiet.nextAnswer {s t : State} {b : Block} {st : Status} {d : DataWord} (h : Quiet s t b st d) :
    t.nextAnswer = s.nextAnswer := by
  rw [State.nextAnswer, State.nextAnswer, h.ended.elsewhere.answers, h.trains]

/-- What is observed apart from responses does not show where a command ended. -/
theorem Ended.filter_trace {s t : State} {es : List Event} {st : Status} {d : DataWord} (h : Ended s t es st d)
    {p : Event → Bool} (hp : ∀ k r, p (.responded k r) = false) :
    t.trace.filter p = s.trace.filter p ++ es.filter p := by
  rw [h.trace, List.filter_append, List.filter_append, List.filter_cons_of_neg (by simp [hp]), List.filter_nil,
    List.append_nil]

/-- Settles O30: ENCODE and BUILD leave the answer at hand and prepare the block from which WRITE emits. -/
theorem writeIsEncodeBuildSend : Obligations.WriteIsEncodeBuildSend := by
  intro v b s a hc ha
  obtain ⟨t, ht, hwrite⟩ := writeTransmitsFrame v b s a hc ha
  obtain ⟨s1, h1, hencode⟩ := encodeLatchesFrame.1 v b s
  have hc1 : s1.block.configured = true := by rw [hencode.block]; exact hc
  have h2 := exec_build_configured (createFrame v b) hc1
  have hbuild := quiet_updBlock_respond s1 (fun r => r.loadTrain (createFrame v b)) .ok 0
  generalize (s1.updBlock fun r => r.loadTrain (createFrame v b)).respond .ok 0 = s2 at h2 hbuild
  obtain ⟨s3, h3, hsend⟩ := sendTransmitsTrain s2 a (by rw [hbuild.block]; rfl)
    (by rw [hbuild.nextAnswer, hencode.nextAnswer, ha])
  refine ⟨t, s1, s2, s3, ht, h1, h2, h3, ?_, ?_, ?_⟩
  · rw [hwrite.block, hsend.block, hbuild.block, hencode.block]; rfl
  · rw [hwrite.trains, hsend.trains, hbuild.trains, hencode.trains]
  · rw [hwrite.ended.filter_trace fun _ _ => rfl, hsend.ended.filter_trace fun _ _ => rfl,
      hbuild.ended.filter_trace fun _ _ => rfl, hencode.ended.filter_trace fun _ _ => rfl, hbuild.ended.elsewhere.sel,
      hencode.ended.elsewhere.sel, hbuild.block, hencode.block, List.filter_nil, List.append_nil, List.append_nil]
    rfl

/-! The end of a command that has waited (R120, R122, R125, 60_exceptions.md R171, R176). -/

theorem step_answered {s : State} {a : TxAnswer} {d : DataWord} (hb : s.block.busy = true)
    (hf : s.block.inFlight = some d) (ha : s.cur.answer? = some a) : step s = (s.complete d a).react := by
  simp only [step_waiting hb, State.waitStep, ha, State.resume, hf]

/-- The host goes on after a response OK, in a driver sequence or not. -/
theorem react_ok {s : State} {d : DataWord} (hr : s.cur.response = some ⟨.ok, d⟩) : s.react = .next s := by
  cases hq : s.seq with
  | none => exact react_free hq hr
  | some q => exact react_response hq hr

/-- The host has read a transmit failure: DSTATE of the channel is Unspecified, and a driver sequence has ended with
TransmitFailure (44_driver_sequences.md R152). -/
structure FailureNoted (s t : State) : Prop where
  chan   : ∀ k, t.chan k = if k = s.sel then { s.cur with dstate := .unspecified } else s.chan k
  sel    : t.sel = s.sel
  inputs : t.inputs = s.inputs
  seq    : t.seq = none
  trace  : t.trace = s.trace ++ (s.seq.map fun q => .returned q.op .transmitFailure).toList

theorem FailureNoted.cur {s t : State} (h : FailureNoted s t) : t.cur = { s.cur with dstate := .unspecified } := by
  rw [State.cur_eq_chan_sel, h.chan, if_pos h.sel]

theorem react_txfail {s : State} {d : DataWord} (hr : s.cur.response = some ⟨.txfail, d⟩) :
    ∃ t, s.react = .next t ∧ FailureNoted s t := by
  cases hq : s.seq with
  | none =>
    refine ⟨s.setDState s.sel .unspecified, react_free hq hr, ?_⟩
    exact ⟨fun k => chan_setDState s s.sel k _, by simp, by simp, by simp [hq], by simp [hq]⟩
  | some q =>
    refine ⟨s.abortSequence q.op, react_response hq hr, ?_⟩
    have hnote := dStateOnly_abortSequence s q.op
    exact ⟨chan_abortSequence s q.op, hnote.sel, hnote.inputs, seq_abortSequence s q.op,
      by simp [hq, trace_abortSequence]⟩

/-- Settles O48: the waiting command completes, and then its response is read. -/
theorem answerEndsWaitingCommand : Obligations.AnswerEndsWaitingCommand := by
  intro s a d hb hf ha
  rw [step_answered hb hf ha]
  obtain ⟨hcur, hresponse, htrace, helse⟩ := complete_spec s d a
  generalize s.complete d a = u at *
  cases a with
  | done =>
    refine ⟨u, react_ok hresponse, ?_, ?_, helse.answers, helse.sel, helse.inputs, helse.others, hresponse, helse.seq,
      helse.dstate, by simpa using htrace⟩
    · rw [State.block_eq_cur_block, hcur]
    · rw [hcur]
  | fail =>
    obtain ⟨t, ht, hnoted⟩ := react_txfail hresponse
    refine ⟨t, ht, ?_, ?_, ?_, hnoted.sel.trans helse.sel, hnoted.inputs.trans helse.inputs, fun k hk => ?_, ?_,
      hnoted.seq, ?_, ?_⟩
    · rw [State.block_eq_cur_block, hnoted.cur, hcur]
    · rw [hnoted.cur, hcur]
    · rw [hnoted.cur, hcur]
    · rw [hnoted.chan, helse.sel, if_neg hk, helse.others k hk]
    · rw [hnoted.cur]; exact hresponse
    · rw [hnoted.cur]
    · rw [hnoted.trace, htrace, helse.seq]
      cases s.seq <;> simp

end Sys2Proof.Machine
end

section
/-! The system commands (43_system_commands.md): NOP and RST, which complete in every state and take no argument. -/

namespace Sys2Proof.Machine

open Sys2Proof

/-- NOP and RST have the whole argument reserved (30_encoding.md R57). -/
theorem answersIllop_of_nop_rst_argument {w : CommandWord} (hop : opField w = 0x00 ∨ opField w = 0x01)
    (harg : argField w ≠ 0) (s : State) : AnswersIllop s w := by
  refine answersIllop_of_not_readFrom (fun i hi hread => ?_) s
  rw [hi] at hop
  cases i with
  | nop | rst => exact harg ((eq_argZ_iff _).mpr hread)
  | _ => simp [opcodeOf] at hop

/-- Settles O33: NOP is nothing but a response, and no command of its opcode admits an argument. -/
theorem nopAnswersOk : Obligations.NopAnswersOk :=
  ⟨fun s => ⟨_, rfl, quiet_respond s .ok 0⟩,
    fun _ s hop harg => answersIllop_of_nop_rst_argument (.inl hop) harg s, by decide, by decide⟩

/-- The block is the same after the reset input of its channel as after reset (70_reset_and_hazards.md R186). -/
theorem block_hardwareReset (s : State) (k : ChannelId) : ((s.hardwareReset k).chan k).block = Block.reset := by
  rw [chan_hardwareReset, if_pos rfl]

theorem statusWord_reset : Block.reset.statusWord = 0 := by decide

/-- Settles O34: RST is one write of the whole block, by its reset value, and a response. -/
theorem rstResetsBlock : Obligations.RstResetsBlock := by
  refine ⟨fun s => ?_, fun _ s hop harg => answersIllop_of_nop_rst_argument (.inr hop) harg s, by decide⟩
  have hquiet : Quiet s (s.resetBlock.respond .ok 0) Block.reset .ok 0 :=
    quiet_updBlock_respond s (fun _ => Block.reset) .ok 0
  have hblock : (s.resetBlock.respond .ok 0).block = Block.reset := hquiet.block
  exact ⟨_, rfl, hquiet, by rw [hblock, block_hardwareReset], by rw [hblock, statusWord_reset]⟩

end Sys2Proof.Machine
end

section
/-! One action of a driver sequence (44_driver_sequences.md): a command it issues, with the response the driver reads, a
wait, and the wait for a response that a reset has taken away (70_reset_and_hazards.md R186, R188). -/

namespace Sys2Proof.Machine

open Sys2Proof

/-! The reset input (R186, R188). -/

theorem seq_hardwareReset (s : State) (k : ChannelId) :
    (s.hardwareReset k).seq =
      if s.sel = k ∧ (s.chan k).block.busy = true then s.seq.map Sequence.loseResponse else s.seq := by
  rw [State.hardwareReset, State.seq_setChan]

@[simp] theorem sel_hardwareReset (s : State) (k : ChannelId) : (s.hardwareReset k).sel = s.sel :=
  sel_applyEnv s (.hardwareReset k)

@[simp] theorem inputs_hardwareReset (s : State) (k : ChannelId) : (s.hardwareReset k).inputs = s.inputs :=
  inputs_applyEnv s (.hardwareReset k)

@[simp] theorem trace_hardwareReset (s : State) (k : ChannelId) : (s.hardwareReset k).trace = s.trace := by
  simp [State.hardwareReset]

theorem trace_applyEnv (s : State) (e : EnvEvent) : (s.applyEnv e).trace = s.trace := by
  cases e <;> simp [State.applyEnv]

/-- An answer to the train already handed over is none to the next one (log entry 18). -/
theorem nextAnswer_late (s : State) (a : TxAnswer) :
    (s.applyEnv (.answer s.sel s.cur.trains a)).nextAnswer = s.nextAnswer := by
  have hcur : (s.applyEnv (.answer s.sel s.cur.trains a)).cur =
      { s.cur with answers := s.cur.answers ++ [(s.cur.trains, a)] } := by
    rw [State.cur_eq_chan_sel, sel_applyEnv, chan_applyEnv_answer, if_pos rfl]
    rfl
  have hnext : (s.cur.trains + 1 == s.cur.trains) = false := by simp
  simp [State.nextAnswer, hcur, List.lookup_append, List.lookup_cons, hnext]

/-- With no command executing, an event of the environment makes none execute and leaves the driver sequence as it is. -/
theorem applyEnv_idle {s : State} (h : s.block.busy = false) (e : EnvEvent) :
    (s.applyEnv e).block.busy = false ∧ (s.applyEnv e).seq = s.seq := by
  rw [State.block_eq_cur_block, State.cur_eq_chan_sel, sel_applyEnv]
  cases e with
  | answer k n a =>
    refine ⟨?_, by simp [State.applyEnv]⟩
    rw [(samePorts_answer s k n a).block]; exact h
  | hardwareReset k =>
    refine ⟨?_, ?_⟩
    · rw [State.applyEnv, chan_hardwareReset]
      split
      · rfl
      · exact h
    · rw [State.applyEnv, seq_hardwareReset, if_neg]
      rintro ⟨rfl, hb⟩
      exact Bool.false_ne_true (h.symm.trans hb)

/-- Settles O49: the reset of a free host's block, of the block it waits for, and the step of a lost response. -/
theorem hardwareResetResetsBlock : Obligations.HardwareResetResetsBlock := by
  refine ⟨fun s k rest hs hin => ?_, fun s rest hb ha hin => ?_, fun s q todo hb hq htodo => ?_⟩
  · have hstep : step s = .next ({ s with inputs := rest }.hardwareReset k) := by
      rw [step_input hs]; simp only [State.inputStep, hin, State.applyEnv]
    refine ⟨_, hstep, ?_, fun j hj => ?_, by simp, by simp, ?_, by simp⟩
    · rw [chan_hardwareReset, if_pos rfl, State.chan_with_inputs]
    · rw [chan_hardwareReset, if_neg hj, State.chan_with_inputs]
    · rw [seq_hardwareReset]; simp [hs.noSeq]
  · have hstep : step s = .next ({ s with inputs := rest }.hardwareReset s.sel) := by
      rw [step_waiting hb]
      simp only [State.waitStep, ha, State.heldStep, hin, takeEnv, State.applyEnv]
    have hcur : ({ s with inputs := rest }.hardwareReset s.sel).cur =
        { s.cur with block := Block.reset, response := none } := by
      rw [← cur_of_sel (sel_hardwareReset _ _), chan_hardwareReset, if_pos rfl, State.chan_with_inputs,
        State.cur_eq_chan_sel]
    refine ⟨_, hstep, ?_, ?_, by simp, by simp, by simp, fun k hk => ?_, ?_, ?_, ?_, fun a => ?_⟩
    · rw [State.block_eq_cur_block, hcur]
    · rw [hcur]
    · rw [chan_hardwareReset, if_neg hk, State.chan_with_inputs]
    · rw [hcur]
    · rw [hcur]
    · rw [seq_hardwareReset, if_pos ⟨rfl, by rw [State.chan_with_inputs]; exact hb⟩]; rfl
    · have hlate := nextAnswer_late ({ s with inputs := rest }.hardwareReset s.sel) a
      rwa [hcur, sel_hardwareReset] at hlate
  · have hstep : step s = s.heldStep := by rw [step_sequence hb hq]; simp only [State.sequenceStep, htodo]
    rw [hstep]
    cases he : takeEnv s.inputs with
    | none => exact ⟨s, by simp only [State.heldStep, he], hb, hq, rfl, rfl, rfl⟩
    | some p =>
      obtain ⟨e, rest⟩ := p
      obtain ⟨hidle, hseq⟩ := applyEnv_idle (s := { s with inputs := rest }) (by simpa [State.block, State.cur] using hb) e
      refine ⟨{ s with inputs := rest }.applyEnv e, by simp only [State.heldStep, he], hidle, hseq.trans hq,
        trace_applyEnv _ e, sel_applyEnv _ e, ?_⟩
      rw [inputs_applyEnv]
      exact takeEnv_host he

/-! A wait (R147). -/

theorem step_sequence_waitMs {s : State} {q : Sequence} {ms : Nat} {todo : List HostItem} (hb : s.block.busy = false)
    (hq : s.seq = some q) (htodo : q.todo = .waitMs ms :: todo) :
    step s = .next ({ s with seq := some ⟨q.op, todo⟩ }.log (.waited ms)) := by
  rw [step_sequence hb hq]
  simp only [State.sequenceStep, htodo]

/-- Settles O47: the host's own wait is an input, the one of a driver sequence an action of its list. -/
theorem waitMsIsOneEvent : Obligations.WaitMsIsOneEvent := by
  refine ⟨fun s ms rest hs hin => ?_, fun s op ms todo hb hq => step_sequence_waitMs hb hq rfl⟩
  rw [step_input hs]
  simp only [State.inputStep, hin, State.hostStep, State.log]

/-! A command that a driver sequence issues (R146). -/

/-- The machine as channel `k` begins to execute a command of a driver sequence, of which `q` is what is left. -/
def State.begun (s : State) (k : ChannelId) (q : Sequence) : State := { s with seq := some q }.accept k

section

variable (s : State) (k : ChannelId) (q : Sequence)

theorem sel_begun : (s.begun k q).sel = k := sel_accept _ k
theorem seq_begun : (s.begun k q).seq = some q := seq_accept _ k
theorem inputs_begun : (s.begun k q).inputs = s.inputs := inputs_accept _ k
theorem trace_begun : (s.begun k q).trace = s.trace := trace_accept _ k

theorem chan_begun_ne {j : ChannelId} (hj : j ≠ k) : (s.begun k q).chan j = s.chan j := by
  rw [State.begun, chan_accept_ne _ k j hj, State.chan_with_seq]

theorem cur_begun : (s.begun k q).cur =
    { s.chan k with block := { (s.chan k).block with busy := true }, response := none } := by
  rw [State.begun, cur_accept, State.chan_with_seq]

theorem block_begun : (s.begun k q).block = { (s.chan k).block with busy := true } :=
  congrArg Channel.block (cur_begun s k q)

end

theorem step_issue {s : State} {q : Sequence} {k : ChannelId} {i : Instr} {todo : List HostItem}
    (hb : s.block.busy = false) (hq : s.seq = some q) (htodo : q.todo = .issue k i :: todo)
    (hk : (s.chan k).block.busy = false) : step s = afterBlock (exec i (s.begun k ⟨q.op, todo⟩)) := by
  rw [step_sequence hb hq]
  simp only [State.sequenceStep, htodo, hk, Bool.false_eq_true, if_false, State.issue, runWord_decoded (decodeOfEncode i),
    State.begun]

theorem exec_write_unconfigured {s : State} (v : ThrottleOperand) (t : Bool) (hc : s.block.configured = false) :
    exec (.write v t) s = .next (s.raise .illstate) := by
  simp [exec, execWrite, Block.permitsBuild, hc]

/-- Settles O60: the WRITE is answered with ILLSTATE, which the driver does not read. -/
theorem sequenceOnUnconfiguredRefused : Obligations.SequenceOnUnconfiguredRefused := by
  intro s q k v b todo hb hq htodo hk hc
  have hended := (quiet_raise (s.begun k ⟨q.op, todo⟩) .illstate).ended
  rw [step_issue hb hq htodo hk, exec_write_unconfigured v b (by rw [block_begun]; exact hc), afterBlock,
    react_response (hended.elsewhere.seq.trans (seq_begun ..)) hended.response, State.hostReads]

/-- Settles O58: the host reads TXFAIL in the step that gives it (`react_txfail`). -/
theorem txfailAbortsSequence : Obligations.TxfailAbortsSequence := by
  intro s t q k i todo hb hq htodo h hresponse hk
  rw [step_issue hb hq htodo hk] at h
  cases hu : exec i (s.begun k ⟨q.op, todo⟩) with
  | refused r => rw [hu] at h; cases h
  | fault r => exact nomatch r
  | next u =>
    rw [hu] at h
    have helse := exec_elsewhere hu
    have hsel : u.sel = k := helse.sel.trans (sel_begun ..)
    obtain ⟨d, hd⟩ := hresponse
    rw [(dStateOnly_react h).response, cur_of_sel hsel] at hd
    obtain ⟨t', ht', hnoted⟩ := react_txfail hd
    cases next_inj (h.symm.trans ht')
    refine ⟨hnoted.seq, ?_, ?_, hnoted.sel.trans hsel, ?_, fun j hj => ?_⟩
    · rw [cur_of_sel (hnoted.sel.trans hsel), hnoted.cur]
    · rw [hnoted.inputs, helse.inputs, inputs_begun]
    · rw [hnoted.trace, helse.seq, seq_begun]; simp
    · rw [hnoted.chan, hsel, if_neg hj, helse.others j (by rwa [sel_begun]), chan_begun_ne s k _ hj]

end Sys2Proof.Machine
end

section
/-! A driver sequence from its start to its result (44_driver_sequences.md R146): how it proceeds by its commands and waits
(`Proceeds`), how it returns (`Returns`), and WRITE_THROTTLE. -/

namespace Sys2Proof.Machine

open Sys2Proof

/-! The whole channel after a command. -/

theorem Ended.cur_eq {s t : State} {es : List Event} {st : Status} {d : DataWord} (h : Ended s t es st d) :
    t.cur = { s.cur with block := t.block, response := some ⟨st, d⟩, trains := t.cur.trains } := by
  have helse := h.elsewhere
  simp only [← h.response, ← helse.answers, ← helse.dstate]
  rfl

/-! How a sequence proceeds. -/

/-- The driver sequence `op` has the turn and has `todo` left. -/
structure State.Performing (s : State) (op : DriverOp) (todo : List HostItem) : Prop where
  idle : s.block.busy = false
  seq  : s.seq = some ⟨op, todo⟩

/-- In `n` steps from `s` the driver sequence `op` reaches `t`, where it has `todo` left and the channels are `chans`, and
the events `es` are observed. -/
structure Proceeds (n : Nat) (s t : State) (op : DriverOp) (todo : List HostItem) (chans : ChannelId → Channel)
    (es : List Event) : Prop where
  run        : Sys2Proof.core.run n s = .next t
  performing : t.Performing op todo
  chan       : t.chan = chans
  inputs     : t.inputs = s.inputs
  trace      : t.trace = s.trace ++ es

/-- In `n` steps from `s` the driver sequence `op` is over in `t` and has returned `r`; the channels are `chans`, and the
events `es` were observed before its result. -/
structure Returns (n : Nat) (s t : State) (op : DriverOp) (r : DriverResult) (chans : ChannelId → Channel)
    (es : List Event) : Prop where
  run    : Sys2Proof.core.run n s = .next t
  ready  : t.Ready
  chan   : t.chan = chans
  inputs : t.inputs = s.inputs
  trace  : t.trace = s.trace ++ es ++ [.returned op r]

theorem run_one {s t : State} (h : step s = .next t) : Sys2Proof.core.run 1 s = .next t := run_step h

section

variable {s t u : State} {op : DriverOp} {todo todo' : List HostItem} {m n : Nat} {f g : ChannelId → Channel}
  {es es' : List Event}

theorem State.Performing.proceeds (h : s.Performing op todo) : Proceeds 0 s s op todo s.chan [] :=
  ⟨rfl, h, rfl, rfl, (List.append_nil _).symm⟩

theorem Proceeds.trans (h : Proceeds n s t op todo f es) (h' : Proceeds m t u op todo' g es') :
    Proceeds (n + m) s u op todo' g (es ++ es') where
  run := (run_trans h.run).trans h'.run
  performing := h'.performing
  chan := h'.chan
  inputs := h'.inputs.trans h.inputs
  trace := by rw [h'.trace, h.trace, List.append_assoc]

theorem Proceeds.returns {r : DriverResult} (h : Proceeds n s t op todo f es) (h' : Returns m t u op r g es') :
    Returns (n + m) s u op r g (es ++ es') where
  run := (run_trans h.run).trans h'.run
  ready := h'.ready
  chan := h'.chan
  inputs := h'.inputs.trans h.inputs
  trace := by rw [h'.trace, h.trace, List.append_assoc s.trace]

/-- The host's call of a driver operation is a step of its own, which changes no channel and shows no event. -/
theorem run_call {rest : List Input} (hs : s.Ready) (hin : s.inputs = .host (.call op) :: rest) :
    ∃ u : State, Sys2Proof.core.run 1 s = .next u ∧ u.Performing op (planOf op) ∧ u.chan = s.chan ∧ u.inputs = rest ∧
      u.trace = s.trace := by
  refine ⟨{ s with inputs := rest, seq := some ⟨op, planOf op⟩ }, run_one ?_, ⟨?_, rfl⟩, ?_, rfl, rfl⟩
  · rw [step_input hs]; simp only [State.inputStep, hin, State.hostStep]
  · rw [State.block_eq_cur_block, State.cur_eq_chan_sel, State.chan_with_inputs_seq]; exact hs.idle
  · exact funext fun k => State.chan_with_inputs_seq s k rest _

/-- A sequence waits (R147). -/
theorem proceeds_waitMs {ms : Nat} (hs : s.Performing op (.waitMs ms :: todo)) :
    ∃ t, Proceeds 1 s t op todo s.chan [.waited ms] := by
  have hchan : ({ s with seq := some ⟨op, todo⟩ }.log (.waited ms)).chan = s.chan := funext fun k => by simp
  refine ⟨_, run_one (step_sequence_waitMs hs.idle hs.seq rfl), ⟨?_, rfl⟩, hchan, rfl, rfl⟩
  rw [State.block_log, State.block_eq_cur_block, State.cur_eq_chan_sel, State.chan_with_seq]
  exact hs.idle

/-- A command of a sequence is answered OK: the host goes on. -/
theorem proceeds_issue {k : ChannelId} {i : Instr} {d : DataWord} (hs : s.Performing op (.issue k i :: todo))
    (hk : (s.chan k).block.busy = false) (hexec : exec i (s.begun k ⟨op, todo⟩) = .next t)
    (hended : Ended (s.begun k ⟨op, todo⟩) t es .ok d) (hidle : t.block.busy = false) :
    Proceeds 1 s t op todo
      (Function.update s.chan k { s.chan k with block := t.block, response := some ⟨.ok, d⟩, trains := t.cur.trains })
      (es ++ [.responded k ⟨.ok, d⟩]) := by
  have helse := hended.elsewhere
  have hsel : t.sel = k := helse.sel.trans (sel_begun ..)
  have hstep : step s = .next t := by
    rw [step_issue hs.idle hs.seq rfl hk, hexec, afterBlock, react_ok hended.response]
  refine ⟨run_one hstep, ⟨hidle, helse.seq.trans (seq_begun ..)⟩, funext fun j => ?_,
    helse.inputs.trans (inputs_begun ..), ?_⟩
  · by_cases hj : j = k
    · subst hj
      rw [Function.update_self, cur_of_sel hsel, hended.cur_eq, cur_begun]
    · rw [Function.update_of_ne hj, helse.others j (by rwa [sel_begun]), chan_begun_ne s k _ hj]
  · rw [hended.trace, trace_begun, sel_begun, List.append_assoc]

/-! How a sequence returns. -/

/-- What a completed operation leaves as DSTATE of channel `j`, where it was `d` (R152). -/
def DriverOp.dstateAfter (j : ChannelId) (d : DState) : DriverOp → DState
  | .construct k _ _ _ => if j = k then .unarmed else d
  | .writeThrottle _ _ _ => d
  | .arm k => if j = k then .armed else d
  | .garm => .armed
  | .gupd _ _ _ _ => d

/-- Channel `c` with DSTATE `d`. -/
def Channel.noted (c : Channel) (d : DState) : Channel := { c with dstate := d }

@[simp] theorem Channel.noted_self (c : Channel) : c.noted c.dstate = c := rfl
@[simp] theorem Channel.block_noted (c : Channel) (d : DState) : (c.noted d).block = c.block := rfl
@[simp] theorem Channel.trains_noted (c : Channel) (d : DState) : (c.noted d).trains = c.trains := rfl
@[simp] theorem Channel.answers_noted (c : Channel) (d : DState) : (c.noted d).answers = c.answers := rfl
@[simp] theorem Channel.dstate_noted (c : Channel) (d : DState) : (c.noted d).dstate = d := rfl

theorem chan_noteSuccess (s : State) (op : DriverOp) (j : ChannelId) :
    (s.noteSuccess op).chan j = (s.chan j).noted (op.dstateAfter j (s.chan j).dstate) := by
  cases op with
  | construct k | arm k =>
    rw [State.noteSuccess, chan_setDState]
    by_cases hj : j = k
    · simp [DriverOp.dstateAfter, hj, Channel.noted]
    · simp [DriverOp.dstateAfter, hj]
  | writeThrottle | gupd => rfl
  | garm => cases j <;> simp [State.noteSuccess, chan_setDState, DriverOp.dstateAfter, Channel.noted]

theorem chan_finishSequence (s : State) (op : DriverOp) (j : ChannelId) :
    (s.finishSequence op).chan j = (s.chan j).noted (op.dstateAfter j (s.chan j).dstate) := by
  rw [State.finishSequence, State.chan_log, chan_noteSuccess, State.chan_with_seq]

/-- A sequence with nothing left to do returns Ok. -/
theorem returns_ok (hs : s.Performing op []) :
    Returns 1 s (s.finishSequence op) op .ok
      (fun j => (s.chan j).noted (op.dstateAfter j (s.chan j).dstate)) [] := by
  have hnote := dStateOnly_finishSequence s op
  have hidle : (s.finishSequence op).block.busy = false := by
    rw [State.block_eq_cur_block, State.cur_eq_chan_sel, hnote.sel, hnote.block]; exact hs.idle
  refine ⟨run_one ?_, ⟨hidle, seq_finishSequence s op⟩, funext (chan_finishSequence s op), hnote.inputs, ?_⟩
  · rw [step_sequence hs.idle hs.seq, State.sequenceStep]
  · rw [trace_finishSequence, List.append_nil]

/-- A command of a sequence is answered TXFAIL: the sequence is over. -/
theorem returns_transmitFailure {k : ChannelId} {i : Instr} {d : DataWord} (hs : s.Performing op (.issue k i :: todo))
    (hk : (s.chan k).block.busy = false) (hexec : exec i (s.begun k ⟨op, todo⟩) = .next t)
    (hended : Ended (s.begun k ⟨op, todo⟩) t es .txfail d) (hidle : t.block.busy = false) :
    ∃ u, Returns 1 s u op .transmitFailure
      (Function.update s.chan k { s.chan k with
        block := t.block, response := some ⟨.txfail, d⟩, trains := t.cur.trains, dstate := .unspecified })
      (es ++ [.responded k ⟨.txfail, d⟩]) := by
  have helse := hended.elsewhere
  have hsel : t.sel = k := helse.sel.trans (sel_begun ..)
  obtain ⟨u, hu, hnoted⟩ := react_txfail hended.response
  have hstep : step s = .next u := by rw [step_issue hs.idle hs.seq rfl hk, hexec, afterBlock, hu]
  refine ⟨u, run_one hstep, ⟨?_, hnoted.seq⟩, funext fun j => ?_, ?_, ?_⟩
  · rw [State.block_eq_cur_block, hnoted.cur]; exact hidle
  · rw [hnoted.chan, hsel]
    by_cases hj : j = k
    · subst hj
      rw [if_pos rfl, Function.update_self, hended.cur_eq, cur_begun]
    · rw [if_neg hj, Function.update_of_ne hj, helse.others j (by rwa [sel_begun]), chan_begun_ne s k _ hj]
  · rw [hnoted.inputs, helse.inputs, inputs_begun]
  · rw [hnoted.trace, hended.trace, helse.seq, seq_begun, trace_begun, sel_begun, List.append_assoc s.trace]
    rfl

end

/-! One WRITE of a sequence (R149). -/

/-- The response to a WRITE by its answer (42_pulse_train_sequencer.md R125). -/
def writeResponse (v : ThrottleOperand) (b : Bool) : TxAnswer → Response
  | .done => ⟨.ok, (createFrame v b).setWidth 32⟩
  | .fail => ⟨.txfail, 0⟩

/-- What is observed of a WRITE on channel `k` with the tick table `t`. -/
def writeEvents (k : ChannelId) (t : BitTicks) (v : ThrottleOperand) (b : Bool) (a : TxAnswer) : List Event :=
  trainEvents k (buildTrain (createFrame v b) t) ++ [.answered k a, .responded k (writeResponse v b a)]

/-- Channel `c` after a WRITE with the answer `a`. -/
def Channel.wrote (c : Channel) (v : ThrottleOperand) (b : Bool) (a : TxAnswer) : Channel :=
  { c with
    block := { c.block.loadWritten v b with pos := 0 }.idle
    response := some (writeResponse v b a)
    trains := c.trains + 1 }

section

variable (c : Channel) (v : ThrottleOperand) (b : Bool) (a : TxAnswer)

@[simp] theorem Channel.frame_wrote : (c.wrote v b a).block.frame = createFrame v b := rfl
@[simp] theorem Channel.trains_wrote : (c.wrote v b a).trains = c.trains + 1 := rfl
@[simp] theorem Channel.dstate_wrote : (c.wrote v b a).dstate = c.dstate := rfl

end

section

variable {s : State} {op : DriverOp} {todo : List HostItem} {k : ChannelId} {v : ThrottleOperand} {b : Bool}

/-- A WRITE executes in a sequence, its answer at hand. -/
theorem exec_write_begun (q : Sequence) (a : TxAnswer) (hc : (s.chan k).block.configured = true)
    (ha : (s.chan k).answers.lookup ((s.chan k).trains + 1) = some a) :
    ∃ t, exec (.write v b) (s.begun k q) = .next t ∧
      t.block = ((s.chan k).wrote v b a).block ∧ t.cur.trains = (s.chan k).trains + 1 ∧
      Ended (s.begun k q) t (trainEvents k (buildTrain (createFrame v b) (s.chan k).block.ticks) ++ [.answered k a])
        (writeResponse v b a).status (writeResponse v b a).data := by
  obtain ⟨t, hexec, hsent⟩ := writeTransmitsFrame v b (s.begun k q) a (by rw [block_begun]; exact hc)
    (by rw [State.nextAnswer, cur_begun]; exact ha)
  have hblock := hsent.block
  have htrains := hsent.trains
  have hended := hsent.ended
  rw [block_begun] at hblock hended
  rw [cur_begun] at htrains
  rw [sel_begun] at hended
  refine ⟨t, hexec, hblock, htrains, ?_⟩
  cases a <;> exact hended

/-- A WRITE of a sequence whose answer `done` is at hand. -/
theorem proceeds_write (hs : s.Performing op (.issue k (.write v b) :: todo)) (hk : (s.chan k).block.busy = false)
    (hc : (s.chan k).block.configured = true)
    (ha : (s.chan k).answers.lookup ((s.chan k).trains + 1) = some .done) :
    ∃ t, Proceeds 1 s t op todo (Function.update s.chan k ((s.chan k).wrote v b .done))
      (writeEvents k (s.chan k).block.ticks v b .done) := by
  obtain ⟨t, hexec, hblock, htrains, hended⟩ := exec_write_begun ⟨op, todo⟩ .done hc ha
  have h := proceeds_issue hs hk hexec hended (by rw [hblock]; rfl)
  rw [hblock, htrains, List.append_assoc] at h
  exact ⟨t, h⟩

/-- A WRITE of a sequence whose answer `fail` is at hand. -/
theorem returns_write_fail (hs : s.Performing op (.issue k (.write v b) :: todo)) (hk : (s.chan k).block.busy = false)
    (hc : (s.chan k).block.configured = true)
    (ha : (s.chan k).answers.lookup ((s.chan k).trains + 1) = some .fail) :
    ∃ t, Returns 1 s t op .transmitFailure
      (Function.update s.chan k (((s.chan k).wrote v b .fail).noted .unspecified))
      (writeEvents k (s.chan k).block.ticks v b .fail) := by
  obtain ⟨t, hexec, hblock, htrains, hended⟩ := exec_write_begun ⟨op, todo⟩ .fail hc ha
  have h := returns_transmitFailure hs hk hexec hended (by rw [hblock]; rfl)
  rw [hblock, htrains, List.append_assoc] at h
  exact h

end

/-- Settles O54: the call, one WRITE, and on `done` the return. -/
theorem writeThrottleWritesOnce : Obligations.WriteThrottleWritesOnce := by
  intro s k v b a rest hs hk hc hin ha
  obtain ⟨u, hcall, hu, hchan, hinputs, htrace⟩ := run_call hs hin
  rw [← hchan] at hk hc ha ⊢
  rw [← hinputs, ← htrace]
  cases a with
  | done =>
    obtain ⟨t, hwrite⟩ := proceeds_write hu hk hc ha
    have hret := hwrite.returns (returns_ok hwrite.performing)
    refine ⟨_, (run_trans hcall).trans hret.run, hret.ready, hret.inputs, ?_⟩
    rw [hret.chan, hret.trace, hwrite.chan]
    refine ⟨by simp, by simp, by simp [DriverOp.dstateAfter], by simp [writeEvents, writeResponse], fun j hj => ?_⟩
    simp [DriverOp.dstateAfter, hj]
  | fail =>
    obtain ⟨t, hret⟩ := returns_write_fail hu hk hc ha
    refine ⟨t, (run_trans hcall).trans hret.run, hret.ready, hret.inputs, ?_⟩
    rw [hret.chan, hret.trace]
    exact ⟨by simp, by simp, by simp, by simp [writeEvents, writeResponse], fun j hj => by simp [hj]⟩

end Sys2Proof.Machine
end

section
/-! CONSTRUCT (44_driver_sequences.md R148): RST, the supplied timing sources and INIT, each a command that emits nothing and
is answered OK. -/

namespace Sys2Proof.Machine

open Sys2Proof

/-- Channel `c` with the block `b`, after a response OK with data `d`. -/
def Channel.replied (c : Channel) (b : Block) (d : DataWord) : Channel :=
  { c with block := b, response := some ⟨.ok, d⟩ }

@[simp] theorem Channel.replied_replied (c : Channel) (b b' : Block) (d d' : DataWord) :
    (c.replied b d).replied b' d' = c.replied b' d' := rfl

@[simp] theorem Channel.block_replied (c : Channel) (b : Block) (d : DataWord) : (c.replied b d).block = b := rfl
@[simp] theorem Channel.trains_replied (c : Channel) (b : Block) (d : DataWord) : (c.replied b d).trains = c.trains := rfl
@[simp] theorem Channel.answers_replied (c : Channel) (b : Block) (d : DataWord) :
    (c.replied b d).answers = c.answers := rfl

section

variable {s : State} {op : DriverOp} {todo : List HostItem} {k : ChannelId} {i : Instr} {b r : Block} {d d' : DataWord}
  {g : ChannelId → Channel} {c : Channel}

/-- A command of a sequence that emits nothing and is answered OK leaves its block as `r`. -/
theorem proceeds_quiet (hs : s.Performing op (.issue k i :: todo)) (hk : (s.chan k).block.busy = false)
    (hexec : ∀ u : State, u.block = { (s.chan k).block with busy := true } → ∃ t, exec i u = .next t ∧ Quiet u t r .ok d) :
    ∃ t, Proceeds 1 s t op todo (Function.update s.chan k ((s.chan k).replied r.idle d)) [.responded k ⟨.ok, d⟩] := by
  obtain ⟨t, ht, hquiet⟩ := hexec (s.begun k ⟨op, todo⟩) (block_begun ..)
  have h := proceeds_issue hs hk ht hquiet.ended (by rw [hquiet.block]; rfl)
  rw [hquiet.block, hquiet.trains, cur_begun] at h
  exact ⟨t, h⟩

/-- The same for a command that follows another one on its channel. -/
theorem proceeds_replied (hs : s.Performing op (.issue k i :: todo))
    (hchan : s.chan = Function.update g k (c.replied b.idle d))
    (hexec : ∀ u : State, u.block = { b.idle with busy := true } → ∃ t, exec i u = .next t ∧ Quiet u t r .ok d') :
    ∃ t, Proceeds 1 s t op todo (Function.update g k (c.replied r.idle d')) [.responded k ⟨.ok, d'⟩] := by
  have hc : s.chan k = c.replied b.idle d := by rw [hchan, Function.update_self]
  have h := proceeds_quiet hs (by rw [hc]; rfl) (by rw [hc]; exact hexec)
  rwa [hc, hchan, Function.update_idem, Channel.replied_replied] at h

/-- The same for a command that writes the registers by `f` and answers. -/
theorem proceeds_updBlock {f : Block → Block} (hs : s.Performing op (.issue k i :: todo))
    (hchan : s.chan = Function.update g k (c.replied b.idle d))
    (hexec : ∀ u : State, exec i u = .next ((u.updBlock f).respond .ok d')) :
    ∃ t, Proceeds 1 s t op todo (Function.update g k (c.replied (f { b.idle with busy := true }).idle d'))
      [.responded k ⟨.ok, d'⟩] :=
  proceeds_replied hs hchan fun u hu => ⟨_, hexec u, hu ▸ quiet_updBlock_respond u f .ok d'⟩

/-! The supplied timing sources. -/

/-- SETOVR, if CONSTRUCT supplies an override. -/
def overrideItems (k : ChannelId) : Option (Tick × Tick) → List HostItem
  | some (t0h, t1h) => [.issue k (.setovr t0h t1h)]
  | none => []

/-- SETCLK and SETDIV, if CONSTRUCT supplies a clock. -/
def clockItems (k : ChannelId) : Option (ClockHz × ClockDiv) → List HostItem
  | some (hz, d) => [.issue k (.setclk hz), .issue k (.setdiv d)]
  | none => []

theorem planOf_construct (k : ChannelId) (p : SpeedProfile) (ovr : Option (Tick × Tick))
    (clk : Option (ClockHz × ClockDiv)) :
    planOf (.construct k p ovr clk) =
      .issue k .rst :: (overrideItems k ovr ++ (clockItems k clk ++ [.issue k (.init p ovr.isSome clk.isSome)])) := by
  rcases ovr with _ | ⟨_, _⟩ <;> rcases clk with _ | ⟨_, _⟩ <;> rfl

/-- The block with the supplied override stored. -/
def Block.withOverride (b : Block) (ovr : Option (Tick × Tick)) : Block :=
  { b with ovrT0h := (ovr.map Prod.fst).getD b.ovrT0h, ovrT1h := (ovr.map Prod.snd).getD b.ovrT1h }

/-- The block with the supplied clock stored. -/
def Block.withClock (b : Block) (clk : Option (ClockHz × ClockDiv)) : Block :=
  { b with clkhz := (clk.map Prod.fst).getD b.clkhz, clkdiv := (clk.map Prod.snd).getD b.clkdiv }

theorem proceeds_overrideItems (ovr : Option (Tick × Tick)) (hs : s.Performing op (overrideItems k ovr ++ todo))
    (hchan : s.chan = Function.update g k (c.replied b.idle 0)) :
    ∃ n t, Proceeds n s t op todo (Function.update g k (c.replied (b.withOverride ovr).idle 0))
      (ovr.toList.map fun _ => .responded k ⟨.ok, 0⟩) := by
  cases ovr with
  | none =>
    have h := hs.proceeds
    rw [hchan] at h
    exact ⟨0, s, h⟩
  | some ov =>
    exact ⟨1, proceeds_updBlock (f := fun b => b.withOverride (some ov)) hs hchan fun _ => rfl⟩

theorem proceeds_clockItems (clk : Option (ClockHz × ClockDiv)) (hs : s.Performing op (clockItems k clk ++ todo))
    (hchan : s.chan = Function.update g k (c.replied b.idle 0)) :
    ∃ n t, Proceeds n s t op todo (Function.update g k (c.replied (b.withClock clk).idle 0))
      (clk.toList.flatMap fun _ => [.responded k ⟨.ok, 0⟩, .responded k ⟨.ok, 0⟩]) := by
  cases clk with
  | none =>
    have h := hs.proceeds
    rw [hchan] at h
    exact ⟨0, s, h⟩
  | some cl =>
    obtain ⟨hz, d⟩ := cl
    obtain ⟨t, hclk⟩ := proceeds_updBlock (f := fun b => { b with clkhz := hz }) hs hchan fun _ => rfl
    obtain ⟨u, hdiv⟩ := proceeds_updBlock (f := fun b => { b with clkdiv := d }) hclk.performing hclk.chan fun _ => rfl
    exact ⟨2, u, hclk.trans hdiv⟩

/-! INIT. -/

/-- The tick table CONSTRUCT resolves to: override, else clock, else default table (41_tick_calibrator.md R98). -/
def constructTicks (p : SpeedProfile) : Option (Tick × Tick) → Option (ClockHz × ClockDiv) → BitTicks
  | some (t0h, t1h), _ => crossWire t0h t1h
  | none, some (hz, d) => fromClock p hz d
  | none, none => defaultTicks p

/-- The source of that table. -/
def constructSource : Option (Tick × Tick) → Option (ClockHz × ClockDiv) → TimingSource
  | some _, _ => .explicit
  | none, some _ => .clock
  | none, none => .table

theorem resolveTiming_construct (p : SpeedProfile) (ovr : Option (Tick × Tick)) (clk : Option (ClockHz × ClockDiv))
    (hclk : ovr = none → ∀ hz d, clk = some (hz, d) → hz ≠ 0 ∧ d ≠ 0) :
    ((b.withOverride ovr).withClock clk).resolveTiming p ovr.isSome clk.isSome =
      .ok (constructTicks p ovr clk, constructSource ovr clk) := by
  rcases ovr with _ | ⟨t0h, t1h⟩
  · rcases clk with _ | ⟨hz, d⟩
    · exact resolveTiming_table _ p
    · obtain ⟨hhz, hd⟩ := hclk rfl hz d rfl
      exact resolveTiming_clock_ok (calibrate_of_ne_zero p hhz hd)
  · exact resolveTiming_override _ p clk.isSome

/-- The block after CONSTRUCT. -/
def constructedBlock (p : SpeedProfile) (ovr : Option (Tick × Tick)) (clk : Option (ClockHz × ClockDiv)) : Block :=
  (((Block.reset.withOverride ovr).withClock clk).configure p (constructTicks p ovr clk) (constructSource ovr clk)).idle

theorem proceeds_init {p : SpeedProfile} {ovr : Option (Tick × Tick)} {clk : Option (ClockHz × ClockDiv)}
    (hclk : ovr = none → ∀ hz d, clk = some (hz, d) → hz ≠ 0 ∧ d ≠ 0)
    (hs : s.Performing op (.issue k (.init p ovr.isSome clk.isSome) :: todo))
    (hchan : s.chan = Function.update g k (c.replied ((Block.reset.withOverride ovr).withClock clk).idle 0)) :
    ∃ t, Proceeds 1 s t op todo
      (Function.update g k (c.replied (constructedBlock p ovr clk) (constructTicks p ovr clk).tpk))
      [.responded k ⟨.ok, (constructTicks p ovr clk).tpk⟩] := by
  refine proceeds_replied (r := constructedBlock p ovr clk) hs hchan fun u hu => ?_
  have hresolve := resolveTiming_construct (b := { Block.reset with busy := true }) p ovr clk hclk
  refine ⟨_, exec_init_ok (by rw [hu]; rfl) (by rw [hu]; exact hresolve), ?_⟩
  have hquiet := quiet_updBlock_respond u
    (fun r => r.configure p (constructTicks p ovr clk) (constructSource ovr clk)) .ok (constructTicks p ovr clk).tpk
  exact ⟨by rw [hquiet.block, hu]; rfl, hquiet.trains, hquiet.ended⟩

/-- All the commands of CONSTRUCT. -/
theorem proceeds_construct {p : SpeedProfile} {ovr : Option (Tick × Tick)} {clk : Option (ClockHz × ClockDiv)}
    (hs : s.Performing (.construct k p ovr clk) (planOf (.construct k p ovr clk))) (hk : (s.chan k).block.busy = false)
    (hclk : ovr = none → ∀ hz d, clk = some (hz, d) → hz ≠ 0 ∧ d ≠ 0) :
    ∃ n t, Proceeds n s t (.construct k p ovr clk) []
      (Function.update s.chan k ((s.chan k).replied (constructedBlock p ovr clk) (constructTicks p ovr clk).tpk))
      ([.responded k ⟨.ok, 0⟩] ++ (ovr.toList.map fun _ => .responded k ⟨.ok, 0⟩) ++
        (clk.toList.flatMap fun _ => [.responded k ⟨.ok, 0⟩, .responded k ⟨.ok, 0⟩]) ++
        [.responded k ⟨.ok, (constructTicks p ovr clk).tpk⟩]) := by
  rw [planOf_construct] at hs
  obtain ⟨t1, hrst⟩ := proceeds_quiet hs hk fun u _ =>
    ⟨_, rfl, quiet_updBlock_respond u (fun _ => Block.reset) .ok 0⟩
  obtain ⟨n2, t2, hovr⟩ := proceeds_overrideItems ovr hrst.performing hrst.chan
  obtain ⟨n3, t3, hcl⟩ := proceeds_clockItems clk hovr.performing hovr.chan
  obtain ⟨t4, hinit⟩ := proceeds_init hclk hcl.performing hcl.chan
  exact ⟨_, t4, ((hrst.trans hovr).trans hcl).trans hinit⟩

end

/-- Settles O53: the call, the commands (`proceeds_construct`) and the return. -/
theorem constructConfiguresChannel : Obligations.ConstructConfiguresChannel := by
  intro s k p ovr clk rest hs hk hin hclk
  refine ⟨rfl, ?_⟩
  obtain ⟨u, hcall, hu, hchan, hinputs, htrace⟩ := run_call hs hin
  rw [← hchan] at hk ⊢
  rw [← hinputs, ← htrace]
  obtain ⟨n, t, hproceeds⟩ := proceeds_construct hu hk hclk
  have hret := hproceeds.returns (returns_ok hproceeds.performing)
  refine ⟨_, _, (run_trans hcall).trans hret.run, hret.ready, hret.inputs, ?_⟩
  rw [hret.chan, hret.trace, hproceeds.chan]
  refine ⟨by simp [DriverOp.dstateAfter], ?_, ?_, by simp, by simp, fun j hj => by simp [DriverOp.dstateAfter, hj]⟩
  · rw [Channel.block_noted, Function.update_self]
    rcases ovr with _ | ⟨_, _⟩ <;> rcases clk with _ | ⟨_, _⟩ <;> rfl
  · rcases ovr with _ | ⟨_, _⟩ <;> rcases clk with _ | ⟨_, _⟩ <;> simp [constructTicks, BitTicks.tpk, tpkWord]

end Sys2Proof.Machine
end

section
/-! The sequences of WRITEs and waits (44_driver_sequences.md R150 to R155): their actions as a list (`DriverAction`), the run
of such a list when every WRITE is answered `done`, and the operations ARM, GARM and GUPD. -/

namespace Sys2Proof.Machine

open Sys2Proof

/-! What the WRITEs of a sequence do to a channel. -/

/-- Channel `c` has become `c'` by `n` trains handed over, each by a WRITE that has ended. -/
structure Channel.Advanced (c c' : Channel) (n : Nat) : Prop where
  idle       : c.block.busy = false → c'.block.busy = false
  configured : c'.block.configured = c.block.configured
  ticks      : c'.block.ticks = c.block.ticks
  answers    : c'.answers = c.answers
  dstate     : c'.dstate = c.dstate
  trains     : c'.trains = c.trains + n

theorem Channel.Advanced.rfl' (c : Channel) : c.Advanced c 0 := ⟨id, rfl, rfl, rfl, rfl, rfl⟩

theorem Channel.Advanced.trans {c c' c'' : Channel} {m n : Nat} (h : c.Advanced c' m) (h' : c'.Advanced c'' n) :
    c.Advanced c'' (m + n) where
  idle hc := h'.idle (h.idle hc)
  configured := h'.configured.trans h.configured
  ticks := h'.ticks.trans h.ticks
  answers := h'.answers.trans h.answers
  dstate := h'.dstate.trans h.dstate
  trains := by rw [h'.trains, h.trains, Nat.add_assoc]

theorem Channel.advanced_wrote (c : Channel) (v : ThrottleOperand) (b : Bool) (a : TxAnswer) :
    c.Advanced (c.wrote v b a) 1 :=
  ⟨fun _ => rfl, rfl, rfl, rfl, rfl, rfl⟩

/-- The channel takes `n` more WRITEs, each answered `done`. -/
def Channel.TakesWrites (c : Channel) (n : Nat) : Prop :=
  ∀ m, m < n → c.block.busy = false ∧ c.block.configured = true ∧ c.answers.lookup (c.trains + 1 + m) = some .done

theorem Channel.TakesWrites.advanced {c c' : Channel} {m n : Nat} (h : c.TakesWrites (m + n)) (h' : c.Advanced c' m) :
    c'.TakesWrites n := by
  intro i hi
  obtain ⟨hidle, hconfigured, hanswer⟩ := h (m + i) (by omega)
  refine ⟨h'.idle hidle, h'.configured.trans hconfigured, ?_⟩
  rw [h'.answers, h'.trains, ← hanswer]
  congr 1
  omega

/-! The actions. -/

/-- A WRITE or a wait of a driver sequence. -/
inductive DriverAction where
  | write (k : ChannelId) (v : ThrottleOperand) (b : Bool)
  | waitMs (ms : Nat)

/-- The action as it stands in the sequence's list. -/
def DriverAction.item : DriverAction → HostItem
  | .write k v b => .issue k (.write v b)
  | .waitMs ms => .waitMs ms

/-- How many trains the action hands to channel `j`. -/
def DriverAction.trains (j : ChannelId) : DriverAction → Nat
  | .write k _ _ => if j = k then 1 else 0
  | .waitMs _ => 0

/-- Channel `j`, from `c`, after the action has gone well. -/
def DriverAction.applyTo (j : ChannelId) (c : Channel) : DriverAction → Channel
  | .write k v b => if j = k then c.wrote v b .done else c
  | .waitMs _ => c

/-- What is observed of the action when it goes well, with the tick tables of the channels. -/
def DriverAction.events (ticks : ChannelId → BitTicks) : DriverAction → List Event
  | .write k v b => writeEvents k (ticks k) v b .done
  | .waitMs ms => [.waited ms]

theorem DriverAction.advanced_applyTo (j : ChannelId) (c : Channel) (a : DriverAction) :
    c.Advanced (a.applyTo j c) (a.trains j) := by
  cases a with
  | write k v b =>
    by_cases hj : j = k
    · simp only [applyTo, trains, if_pos hj]; exact c.advanced_wrote v b .done
    · simp only [applyTo, trains, if_neg hj]; exact .rfl' c
  | waitMs ms => exact .rfl' c

/-- How many trains the actions hand to channel `j`. -/
def trainsTo (j : ChannelId) (as : List DriverAction) : Nat := (as.map (·.trains j)).sum

/-- Channel `j`, from `c`, after the actions have gone well. -/
def Channel.after (c : Channel) (j : ChannelId) (as : List DriverAction) : Channel := as.foldl (fun c a => a.applyTo j c) c

theorem Channel.after_cons (c : Channel) (j : ChannelId) (a : DriverAction) (as : List DriverAction) :
    c.after j (a :: as) = (a.applyTo j c).after j as := rfl

theorem trainsTo_cons (j : ChannelId) (a : DriverAction) (as : List DriverAction) :
    trainsTo j (a :: as) = a.trains j + trainsTo j as := by
  rw [trainsTo, List.map_cons, List.sum_cons, trainsTo]

theorem trainsTo_append (j : ChannelId) (as bs : List DriverAction) :
    trainsTo j (as ++ bs) = trainsTo j as + trainsTo j bs := by
  rw [trainsTo, List.map_append, List.sum_append, trainsTo, trainsTo]

theorem Channel.advanced_after (j : ChannelId) (as : List DriverAction) (c : Channel) :
    c.Advanced (c.after j as) (trainsTo j as) := by
  induction as generalizing c with
  | nil => exact .rfl' c
  | cons a as ih => rw [trainsTo_cons]; exact (a.advanced_applyTo j c).trans (ih _)

/-- A channel to which nothing is written stays as it is. -/
theorem Channel.after_of_trainsTo_eq_zero {j : ChannelId} {as : List DriverAction} (c : Channel)
    (h : trainsTo j as = 0) : c.after j as = c := by
  induction as with
  | nil => rfl
  | cons a as ih =>
    obtain ⟨ha, has⟩ : a.trains j = 0 ∧ trainsTo j as = 0 := by rw [trainsTo_cons] at h; omega
    rw [Channel.after_cons, show a.applyTo j c = c from ?_, ih has]
    cases a with
    | write k v b =>
      refine if_neg fun hj => ?_
      simp [DriverAction.trains, hj] at ha
    | waitMs ms => rfl

/-! The run of a list of actions. -/

/-- The tick tables of the channels. -/
def State.ticks (s : State) (k : ChannelId) : BitTicks := (s.chan k).block.ticks

/-- One action of a sequence, its answer at hand if it is a WRITE. -/
theorem proceeds_action {s : State} {op : DriverOp} {a : DriverAction} {todo : List HostItem}
    (hs : s.Performing op (a.item :: todo)) (ha : ∀ j, (s.chan j).TakesWrites (a.trains j)) :
    ∃ t, Proceeds 1 s t op todo (fun j => a.applyTo j (s.chan j)) (a.events s.ticks) := by
  cases a with
  | write k v b =>
    obtain ⟨hk, hc, hanswer⟩ := ha k 0 (by simp [DriverAction.trains])
    have hchan : Function.update s.chan k ((s.chan k).wrote v b .done) =
        fun j => (DriverAction.write k v b).applyTo j (s.chan j) := by
      funext j
      rw [Function.update_apply, DriverAction.applyTo]
      split
      · subst j; rfl
      · rfl
    rw [← hchan]
    exact proceeds_write hs hk hc hanswer
  | waitMs ms => exact proceeds_waitMs hs

/-- A list of actions of a sequence, with the answers `done` to all its WRITEs at hand. -/
theorem proceeds_actions {op : DriverOp} {todo : List HostItem} (as : List DriverAction) {s : State}
    (hs : s.Performing op (as.map DriverAction.item ++ todo)) (has : ∀ j, (s.chan j).TakesWrites (trainsTo j as)) :
    ∃ t, Proceeds as.length s t op todo (fun j => (s.chan j).after j as) (as.flatMap (·.events s.ticks)) := by
  induction as generalizing s with
  | nil => exact ⟨s, hs.proceeds⟩
  | cons a as ih =>
    simp only [trainsTo_cons] at has
    obtain ⟨u, hu⟩ := proceeds_action hs fun j m hm => has j m (Nat.lt_add_right _ hm)
    have hadvanced (j : ChannelId) : (s.chan j).Advanced (u.chan j) (a.trains j) := by
      rw [hu.chan]; exact a.advanced_applyTo j (s.chan j)
    obtain ⟨t, ht⟩ := ih hu.performing fun j => (has j).advanced (hadvanced j)
    have hticks : u.ticks = s.ticks := funext fun j => (hadvanced j).ticks
    have h := hu.trans ht
    rw [hticks, hu.chan, Nat.add_comm] at h
    exact ⟨t, h⟩

/-- A driver operation whose actions are WRITEs and waits, called with the answers `done` to all its WRITEs at hand. -/
theorem run_call_actions {s : State} {op : DriverOp} {rest : List Input} {as : List DriverAction} (hs : s.Ready)
    (hin : s.inputs = .host (.call op) :: rest) (hplan : planOf op = as.map DriverAction.item)
    (has : ∀ j, (s.chan j).TakesWrites (trainsTo j as)) :
    ∃ t : State, Sys2Proof.core.run (as.length + 2) s = .next t ∧ t.Ready ∧ t.inputs = rest ∧
      t.trace = s.trace ++ as.flatMap (·.events s.ticks) ++ [.returned op .ok] ∧
      ∀ j, t.chan j = ((s.chan j).after j as).noted (op.dstateAfter j (s.chan j).dstate) := by
  obtain ⟨u, hcall, hu, hchan, hinputs, htrace⟩ := run_call hs hin
  have hticks : s.ticks = u.ticks := by unfold State.ticks; rw [hchan]
  rw [hplan, ← List.append_nil (as.map _)] at hu
  rw [hticks, ← hinputs, ← htrace]
  rw [← hchan] at has ⊢
  obtain ⟨t, ht⟩ := proceeds_actions as hu has
  have hret := ht.returns (returns_ok ht.performing)
  refine ⟨_, ?_, hret.ready, hret.inputs, ?_, fun j => ?_⟩
  · rw [show as.length + 2 = 1 + (as.length + 1) by omega]; exact (run_trans hcall).trans hret.run
  · rw [hret.trace, List.append_nil]
  · simp only [hret.chan, ht.chan, ((u.chan j).advanced_after j as).dstate]

/-! GUPD (R155). -/

/-- The actions of GUPD. -/
def gupdActions (v1 v2 v3 v4 : ThrottleOperand) : List DriverAction :=
  [.write .motor1 v1 false, .write .motor2 v2 false, .write .motor3 v3 false, .write .motor4 v4 false]

theorem trainsTo_gupdActions (v1 v2 v3 v4 : ThrottleOperand) (j : ChannelId) :
    trainsTo j (gupdActions v1 v2 v3 v4) = 1 := by
  cases j <;> rfl

/-- Settles O57: the four WRITEs of GUPD go to four channels. -/
theorem gupdWritesEachChannelOnce : Obligations.GupdWritesEachChannelOnce := by
  intro s v1 v2 v3 v4 rest hs hk hin
  obtain ⟨t, hrun, hready, hinputs, htrace, hchan⟩ := run_call_actions (as := gupdActions v1 v2 v3 v4) hs hin rfl
    fun j m hm => by
      rw [trainsTo_gupdActions, Nat.lt_one_iff] at hm
      rw [hm]; exact hk j
  refine ⟨t, hrun, hready, hinputs, ?_, fun k => ?_, ?_⟩
  · rw [htrace]
    simp [gupdActions, DriverAction.events, writeEvents, writeResponse, State.ticks]
  · have hadvanced := (s.chan k).advanced_after k (gupdActions v1 v2 v3 v4)
    rw [trainsTo_gupdActions] at hadvanced
    rw [hchan, Channel.trains_noted, Channel.dstate_noted]
    exact ⟨hadvanced.trains, rfl⟩
  · exact ⟨congrArg (·.block.frame) (hchan .motor1), congrArg (·.block.frame) (hchan .motor2),
      congrArg (·.block.frame) (hchan .motor3), congrArg (·.block.frame) (hchan .motor4)⟩

/-! Arming (R150, R151, R154). -/

/-- One tick of the arming of some channels. -/
def armTickActions (ks : List ChannelId) : List DriverAction := ks.map (.write · 0 false) ++ [.waitMs armDelayMs]

/-- `n` ticks of the arming of some channels. -/
def armActions (ks : List ChannelId) (n : Nat) : List DriverAction := (List.replicate n (armTickActions ks)).flatten

theorem armActions_succ (ks : List ChannelId) (n : Nat) :
    armActions ks (n + 1) = armTickActions ks ++ armActions ks n := rfl

theorem armTicks_eq (ks : List ChannelId) (n : Nat) : armTicks ks n = (armActions ks n).map DriverAction.item := by
  induction n with
  | zero => rfl
  | succ n ih =>
    rw [armTicks, ih, armActions_succ, List.map_append, armTick, armTickActions, List.map_append, List.map_map]
    rfl

theorem armTicks_add (ks : List ChannelId) (m n : Nat) : armTicks ks (m + n) = armTicks ks m ++ armTicks ks n := by
  simp only [armTicks_eq, armActions, List.replicate_add, List.flatten_append, List.map_append]

theorem length_armActions (ks : List ChannelId) (n : Nat) : (armActions ks n).length = n * (ks.length + 1) := by
  simp [armActions, armTickActions]

theorem trainsTo_armTickActions (j : ChannelId) (ks : List ChannelId) :
    trainsTo j (armTickActions ks) = ks.count j := by
  induction ks with
  | nil => rfl
  | cons k ks ih =>
    rw [List.count_cons, ← ih, Nat.add_comm]
    by_cases hj : j = k
    · simp [armTickActions, trainsTo_cons, DriverAction.trains, hj]
    · simp [armTickActions, trainsTo_cons, DriverAction.trains, hj, Ne.symm hj]

theorem trainsTo_armActions (j : ChannelId) (ks : List ChannelId) (n : Nat) :
    trainsTo j (armActions ks n) = n * ks.count j := by
  induction n with
  | zero => rw [Nat.zero_mul]; rfl
  | succ n ih => rw [armActions_succ, trainsTo_append, trainsTo_armTickActions, ih, Nat.succ_mul, Nat.add_comm]

/-- The frame of throttle 0 without telemetry (R151). -/
theorem createFrame_zero : createFrame 0#16 false = 0#16 := by decide

theorem flatMap_armActions (ticks : ChannelId → BitTicks) (ks : List ChannelId) (n : Nat) :
    (armActions ks n).flatMap (·.events ticks) =
      (List.replicate n (ks.flatMap (fun k => writeEvents k (ticks k) 0 false .done) ++ [.waited 20])).flatten := by
  have htick : (armTickActions ks).flatMap (·.events ticks) =
      ks.flatMap (fun k => writeEvents k (ticks k) 0 false .done) ++ [.waited 20] := by
    rw [armTickActions, List.flatMap_append, List.flatMap_map]
    rfl
  induction n with
  | zero => rfl
  | succ n ih => rw [armActions_succ, List.flatMap_append, htick, ih, List.replicate_succ, List.flatten_cons]

theorem count_allChannels (j : ChannelId) : allChannels.count j = 1 := by
  cases j <;> rfl

/-- What is observed of one frame of the arming of channel `k`, answered `done`. -/
def armFrameEvents (k : ChannelId) (t : BitTicks) : List Event :=
  trainEvents k (buildTrain 0 t) ++ [.answered k .done, .responded k ⟨.ok, 0⟩]

theorem flatMap_armActions_allChannels (ticks : ChannelId → BitTicks) (n : Nat) :
    (armActions allChannels n).flatMap (·.events ticks) =
      (List.replicate n (armFrameEvents .motor1 (ticks .motor1) ++ armFrameEvents .motor2 (ticks .motor2) ++
        armFrameEvents .motor3 (ticks .motor3) ++ armFrameEvents .motor4 (ticks .motor4) ++ [.waited 20])).flatten := by
  rw [flatMap_armActions]
  simp [allChannels, writeEvents, writeResponse, createFrame_zero, armFrameEvents]

/-- Settles O59: in each tick, each channel takes one of its 100 WRITEs. -/
theorem garmArmsInLockstep : Obligations.GarmArmsInLockstep := by
  intro s rest hs hk hin
  have htrains (j : ChannelId) : trainsTo j (armActions allChannels armFrames) = 100 := by
    rw [trainsTo_armActions, count_allChannels]; rfl
  obtain ⟨t, hrun, hready, hinputs, htrace, hchan⟩ := run_call_actions (as := armActions allChannels armFrames) hs hin
    (armTicks_eq _ _) fun j m hm => by
      obtain ⟨hidle, hconfigured, hanswers⟩ := hk j
      exact ⟨hidle, hconfigured, hanswers m (by rwa [htrains] at hm)⟩
  rw [length_armActions] at hrun
  refine ⟨t, hrun, hready, hinputs, ?_, fun k => ?_⟩
  · rw [htrace, flatMap_armActions_allChannels]
    rfl
  · have hadvanced := (s.chan k).advanced_after k (armActions allChannels armFrames)
    rw [htrains] at hadvanced
    rw [hchan, Channel.trains_noted, Channel.dstate_noted]
    exact ⟨hadvanced.trains, rfl⟩

theorem trainsTo_arm_self (k : ChannelId) (n : Nat) : trainsTo k (armActions [k] n) = n := by
  simp [trainsTo_armActions]

theorem trainsTo_arm_ne {j k : ChannelId} (hj : j ≠ k) (n : Nat) : trainsTo j (armActions [k] n) = 0 := by
  simp [trainsTo_armActions, hj.symm]

/-- Arming one channel asks nothing of the others. -/
theorem takesWrites_arm {s : State} {k : ChannelId} {n : Nat} (hk : (s.chan k).TakesWrites n) (j : ChannelId) :
    (s.chan j).TakesWrites (trainsTo j (armActions [k] n)) := by
  by_cases hj : j = k
  · subst hj; rwa [trainsTo_arm_self]
  · rw [trainsTo_arm_ne hj]; exact fun _ hm => absurd hm (Nat.not_lt_zero _)

theorem flatMap_arm (ticks : ChannelId → BitTicks) (k : ChannelId) (n : Nat) :
    (armActions [k] n).flatMap (·.events ticks) =
      (List.replicate n (trainEvents k (buildTrain 0 (ticks k)) ++
        [.answered k .done, .responded k ⟨.ok, 0⟩, .waited 20])).flatten := by
  rw [flatMap_armActions]
  simp [writeEvents, writeResponse, createFrame_zero]

theorem frame_after_armActions (k : ChannelId) (n : Nat) (c : Channel) :
    (c.after k (armActions [k] (n + 1))).block.frame = 0 := by
  induction n generalizing c with
  | zero =>
    have hlast : c.after k (armActions [k] 1) = c.wrote 0 false .done := if_pos rfl
    rw [hlast, Channel.frame_wrote]
    decide
  | succ n ih => exact ih _

/-- Settles O55: each of the 100 ticks is one WRITE and one wait. -/
theorem armSendsHundredFrames : Obligations.ArmSendsHundredFrames := by
  intro s k rest hs hk hc hin ha
  obtain ⟨t, hrun, hready, hinputs, htrace, hchan⟩ := run_call_actions (as := armActions [k] armFrames) hs hin
    (armTicks_eq _ _) (takesWrites_arm fun m hm => ⟨hk, hc, ha m hm⟩)
  rw [length_armActions] at hrun
  have hadvanced := (s.chan k).advanced_after k (armActions [k] armFrames)
  rw [trainsTo_arm_self] at hadvanced
  refine ⟨t, _, hrun, hready, hinputs, ?_, ?_, ?_, htrace, ?_, fun j hj => ?_⟩
  · rw [hchan]; exact if_pos rfl
  · rw [hchan, Channel.trains_noted]; exact hadvanced.trains
  · rw [hchan, Channel.block_noted]; exact frame_after_armActions k 99 (s.chan k)
  · exact flatMap_arm s.ticks k armFrames
  · rw [hchan, Channel.after_of_trainsTo_eq_zero _ (trainsTo_arm_ne hj armFrames)]
    simp [DriverOp.dstateAfter, hj]

/-- Settles O56: `n` ticks of one WRITE and one wait, and the WRITE that fails. -/
theorem armStopsAtFirstFailure : Obligations.ArmStopsAtFirstFailure := by
  intro s k rest n hn hs hk hc hin ha hfail
  obtain ⟨u, hcall, hu, hchan, hinputs, htrace⟩ := run_call hs hin
  rw [← hchan] at hk hc ha hfail ⊢
  rw [← hinputs, ← htrace]
  obtain ⟨r, hr⟩ : ∃ r, armFrames = n + (r + 1) := ⟨99 - n, by rw [armFrames]; omega⟩
  rw [planOf, hr, armTicks_add, armTicks_eq [k] n] at hu
  obtain ⟨t, ht⟩ := proceeds_actions _ hu (takesWrites_arm fun m hm => ⟨hk, hc, ha m hm⟩)
  have hadvanced := (u.chan k).advanced_after k (armActions [k] n)
  rw [trainsTo_arm_self, show (u.chan k).after k _ = t.chan k by rw [ht.chan]] at hadvanced
  obtain ⟨w, hw⟩ := returns_write_fail ht.performing (hadvanced.idle hk) (hadvanced.configured.trans hc)
    (by rw [hadvanced.answers, hadvanced.trains, ← hfail]; congr 1; omega)
  have hret := ht.returns hw
  refine ⟨w, _, ?_, hret.ready, hret.inputs, ?_, ?_, ?_, rfl, fun j hj => ?_⟩
  · rw [show 2 * n + 2 = 1 + (n * 2 + 1) by omega]
    rw [length_armActions] at hret
    exact (run_trans hcall).trans hret.run
  · rw [hret.chan, Function.update_self, Channel.dstate_noted]
  · rw [hret.chan, Function.update_self, Channel.trains_noted, Channel.trains_wrote, hadvanced.trains, Nat.add_assoc]
  · rw [hret.trace, flatMap_arm, hadvanced.ticks, State.ticks]
    simp [writeEvents, writeResponse, createFrame_zero]
  · rw [hret.chan, Function.update_of_ne hj, ht.chan]
    exact Channel.after_of_trainsTo_eq_zero _ (trainsTo_arm_ne hj n)

end Sys2Proof.Machine
end

section
/-! When a command is answered with ILLREG, ILLSTATE or TXFAIL (60_exceptions.md R168 to R170). -/

namespace Sys2Proof.Machine

open Sys2Proof

/-! ILLREG (R168). -/

/-- RD of an unmapped index. -/
theorem exec_rd_unmapped {s : State} {r : RegIndex} (h : s.block.regRead r = none) :
    exec (.rd r) s = .next (s.raise .illreg) := by
  simp only [exec, execRd, h]

/-- Settles O36: RD answers by what the register map has at the index, and `regRead_none` says where it has nothing. -/
theorem illregExactlyUnmapped : Obligations.IllregExactlyUnmapped := by
  intro r s
  have hmax : r.toNat ≤ 0xFF := Nat.le_of_lt_succ r.isLt
  have hunmapped := regRead_none s.block r
  cases hr : s.block.regRead r with
  | none =>
    exact ⟨_, .illreg, 0, exec_rd_unmapped hr, quiet_raise s .illreg,
      iff_of_true rfl ((hunmapped.mp hr).imp_right (⟨·, hmax⟩)), .inl ⟨rfl, rfl⟩⟩
  | some d =>
    obtain ⟨t, hexec, hquiet⟩ := exec_rd_mapped hr
    have hmapped : ¬ ((0x09 ≤ r.toNat ∧ r.toNat ≤ 0x0F) ∨ (0x21 ≤ r.toNat ∧ r.toNat ≤ 0xFF)) := fun h =>
      absurd (hunmapped.mpr (h.imp_right And.left)) (by simp [hr])
    exact ⟨t, .ok, d, hexec, hquiet, iff_of_false Status.noConfusion hmapped, .inr rfl⟩

/-! The response at the end of a command, by the shape of the end. -/

theorem Quiet.status_eq {s t : State} {b : Block} {st st' : Status} {d d' : DataWord} (h : Quiet s t b st d)
    (hr : t.cur.response = some ⟨st', d'⟩) : st = st' := by
  cases h.ended.response.symm.trans hr; rfl

/-- The response to a command that sends a train is fixed by the answer to it, and is not there without one. -/
theorem SendEnds.response_eq {s t : State} {b : Block} {d : DataWord} (h : SendEnds s t b d) :
    t.cur.response = s.nextAnswer.map fun a => if a = .done then ⟨.ok, d⟩ else ⟨.txfail, 0⟩ := by
  rcases h with ⟨a, ha, hsent⟩ | ⟨ha, hwaiting⟩
  · rw [ha, hsent.ended.response]; cases a <;> rfl
  · rw [ha, hwaiting.waiting.response]; rfl

theorem SendEnds.trains_eq {s t : State} {b : Block} {d : DataWord} (h : SendEnds s t b d) :
    t.cur.trains = s.cur.trains + 1 := by
  rcases h with ⟨_, _, hsent⟩ | ⟨_, hwaiting⟩
  · exact hsent.trains
  · exact hwaiting.trains

/-! ILLSTATE (R169). -/

theorem exec_build_unconfigured {s : State} (f : Frame) (hc : s.block.configured = false) :
    exec (.build f) s = .next (s.raise .illstate) := by
  simp [exec, execBuild, Block.permitsBuild, hc]

theorem exec_send_without_train {s : State} (hv : s.block.ptvalid = false) :
    exec .send s = .next (s.raise .illstate) := by
  simp [exec, execSend, Block.permitsSend, hv]

theorem SendEnds.response_ne_illstate {s t : State} {b : Block} {d : DataWord} (h : SendEnds s t b d) (d' : DataWord) :
    t.cur.response ≠ some ⟨.illstate, d'⟩ := by
  rw [h.response_eq]
  rcases s.nextAnswer with _ | _ | _ <;> simp

/-- Settles O37: the four cases are the guards of INIT, BUILD, WRITE and SEND, and every other end of a command has another
status or none. -/
theorem illstateExactlyFourCases : Obligations.IllstateExactlyFourCases := by
  refine fun i s => ⟨fun hcase => ?_, fun t d h hr => ?_⟩
  · have hraised (h : exec i s = .next (s.raise .illstate)) : ∃ t, exec i s = .next t ∧ Quiet s t s.block .illstate 0 :=
      ⟨_, h, quiet_raise s .illstate⟩
    cases i with
    | init p o c => exact hraised (exec_init_configured p o c hcase)
    | build f => exact hraised (exec_build_unconfigured f hcase)
    | write v b => exact hraised (exec_write_unconfigured v b hcase)
    | send => exact hraised (exec_send_without_train hcase)
    | _ => exact hcase.elim
  · have hends := exec_inv h
    cases i with
    | init p o c =>
      rcases hends with ⟨hc, _⟩ | ⟨_, _, _, _, hquiet⟩
      · exact hc
      · cases hquiet.status_eq hr
    | build f =>
      rcases hends with ⟨hc, _⟩ | ⟨_, hquiet⟩
      · exact hc
      · cases hquiet.status_eq hr
    | write v b =>
      rcases hends with ⟨hc, _⟩ | ⟨_, hsend⟩
      · exact hc
      · exact absurd hr (hsend.response_ne_illstate d)
    | send =>
      rcases hends with ⟨hv, _⟩ | ⟨_, hsend⟩
      · exact hv
      · exact absurd hr (hsend.response_ne_illstate d)
    | rd r =>
      rcases hends with ⟨_, hquiet⟩ | ⟨_, _, hquiet⟩
      · cases hquiet.status_eq hr
      · cases hquiet.status_eq hr
    | cal p => obtain ⟨_, _, hquiet⟩ := hends; cases hquiet.status_eq hr
    | nop | rst | setclk | setdiv | setovr | lut | bitper | encode => cases Quiet.status_eq hends hr

/-! TXFAIL (R170). -/

theorem SendEnds.response_txfail_iff {s t : State} {b : Block} {d : DataWord} (h : SendEnds s t b d) :
    (∃ d', t.cur.response = some ⟨.txfail, d'⟩) ↔ s.nextAnswer = some .fail := by
  rw [h.response_eq]
  rcases s.nextAnswer with _ | _ | _ <;> simp

/-- A command that hands over no train is not answered with TXFAIL. -/
theorem response_ne_txfail_of_trains_eq {i : Instr} {s t : State} (h : exec i s = .next t)
    (hn : t.cur.trains = s.cur.trains) (d : DataWord) : t.cur.response ≠ some ⟨.txfail, d⟩ := by
  intro hr
  cases exec_commandEnds h with
  | completed hquiet => cases hquiet.status_eq hr
  | declined hst hquiet => cases hquiet.status_eq hr; simp at hst
  | sent _ hsent => exact absurd (hsent.trains.symm.trans hn) (Nat.succ_ne_self _)
  | waiting _ hwaiting => exact absurd (hwaiting.trains.symm.trans hn) (Nat.succ_ne_self _)

/-- Settles O38: a command either hands over no train, or sends one and is answered by what the collaborator answers. -/
theorem txfailExactlyOnFail : Obligations.TxfailExactlyOnFail := by
  intro i s t h
  rcases (exec_inv h).shape with ⟨_, _, _, hquiet⟩ | ⟨_, _, hsend, hi⟩
  · have hnone : t.cur.trains ≠ s.cur.trains + 1 := by rw [hquiet.trains]; exact (Nat.succ_ne_self _).symm
    exact ⟨iff_of_false (fun ⟨d, hr⟩ => response_ne_txfail_of_trains_eq h hquiet.trains d hr) fun h' => hnone h'.1,
      fun h' => absurd h' hnone⟩
  · exact ⟨hsend.response_txfail_iff.trans (and_iff_right hsend.trains_eq).symm, fun _ => hi⟩

end Sys2Proof.Machine
end

section
/-! Reset and the tick counts that are zero (70_reset_and_hazards.md R187, R190). -/

namespace Sys2Proof.Machine

open Sys2Proof

/-! The zero counts (R190). -/

/-- A count rounds to zero exactly when its quotient is below one half, since a tie goes up (R92). -/
theorem tickCount_eq_zero_iff (h hz : Nat) {d : Nat} (hd : 0 < d) :
    tickCount h hz d = 0 ↔ h * hz < 1000000000 * d := by
  rw [tickCount, Nat.div_eq_zero_iff_lt (by omega)]
  omega

theorem t0h_fromClock_eq_zero_iff (p : SpeedProfile) (hz : ClockHz) {d : ClockDiv} (hd : d ≠ 0) :
    (fromClock p hz d).t0h = 0 ↔ zeroHighHalfNs p * hz.toNat < 1000000000 * d.toNat := by
  have hdiv : 0 < d.toNat := Nat.pos_of_ne_zero fun h => hd (BitVec.eq_of_toNat_eq h)
  calc (fromClock p hz d).t0h = 0
      ↔ (fromClock p hz d).t0h.toNat = 0 := BitVec.toNat_inj.symm
    _ ↔ tickCount (zeroHighHalfNs p) hz.toNat d.toNat = 0 := by rw [toNat_t0h_fromClock p hz hd]
    _ ↔ zeroHighHalfNs p * hz.toNat < 1000000000 * d.toNat := tickCount_eq_zero_iff _ _ hdiv

/-- Settles O17: the threshold of each profile is 1 000 000 000 divided by its zero-bit high time in half-nanoseconds. -/
theorem zeroCountThreshold : Obligations.ZeroCountThreshold := by
  refine ⟨fun h hz _ hd => tickCount_eq_zero_iff h hz hd, fun p hz d _ hd => ?_⟩
  rw [t0h_fromClock_eq_zero_iff p hz hd]
  cases p <;> simp only [zeroHighHalfNs] <;> omega

/-! Reset (R187, with the values of R31). -/

theorem block_chan_reset (k : ChannelId) : (State.reset.chan k).block = Block.reset := by
  cases k <;> rfl

theorem getElem_pt_reset (i : Fin 17) : Block.reset.pt[i.val] = ⟨0, 0⟩ :=
  Vector.getElem_replicate i.isLt

/-- Settles O43: every channel has the reset block, whose fields are those of the reset table. -/
theorem resetState : Obligations.ResetState := by
  intro k
  rw [block_chan_reset]
  exact ⟨rfl, rfl, rfl, rfl, rfl, rfl, rfl, rfl, rfl, getElem_pt_reset, rfl, rfl, rfl, statusWord_reset⟩

end Sys2Proof.Machine
end
